-- ==== Sys2Proof/Word.lean ====
section
/-!
DEFINITION. The byte of the links and the numbers by which the spec names its items (00_scope.md,
"Names of numbered items").
-/

namespace Sys2Proof

/-- A byte of a frame body, a glyph code, a routing tag. -/
abbrev Byte := BitVec 8

/-- P0 to P3. -/
abbrev PortId := Fin 4

/-- W0 to W15. -/
abbrev WindowId := Fin 16

/-- T0 to T39. -/
abbrev TileId := Fin 40

/-- E0 to E3. -/
abbrev EngineId := Fin 4

/-- L0 to L15. -/
abbrev LampId := Fin 16

/-- tone 0 to tone 7. -/
abbrev ToneId := Fin 8

/-- The four ports in number order. -/
def portIds : List PortId := List.finRange 4

/-- The sixteen window numbers in order. -/
def windowIds : List WindowId := List.finRange 16

/-- The forty tiles in number order. -/
def tileIds : List TileId := List.finRange 40

/-- The four engines in number order. -/
def engineIds : List EngineId := List.finRange 4

/-- The byte of a number below 256. -/
def byteOf (n : Nat) : Byte := BitVec.ofNat 8 n

/-- A 16-bit value, low byte first (R203). -/
def bytesOf16 (n : Nat) : List Byte := [byteOf n, byteOf (n / 256)]

/-- A 32-bit value, low byte first (R203). -/
def bytesOf32 (w : BitVec 32) : List Byte :=
  [byteOf w.toNat, byteOf (w.toNat / 256), byteOf (w.toNat / 65536), byteOf (w.toNat / 16777216)]

end Sys2Proof
end

