-- ==== Sys2Proof/Syntax.lean ====
section
/-!
DEFINITION. The commands of the part: one constructor per row of spec/opcode_table.json, in the
table's order. A request row carries its port, its tag (R203) and its operands as R205 lays them out.
-/

namespace Sys2Proof

inductive Instr where
  /-- POWER_ON_RESET (R176). -/
  | powerOnReset
  /-- FRAME_RECEIVED (R174): the line bits that follow the opening flag, up to the closing flag or abort. -/
  | frameReceived (p : PortId) (line : List Bool)
  /-- TAKE_REQUEST (R180). -/
  | takeRequest (p : PortId)
  /-- TRANSMISSION_START (R192). -/
  | transmissionStart (p : PortId)
  /-- TRANSMISSION_END (R175). -/
  | transmissionEnd (p : PortId)
  /-- ATTACH (R182). -/
  | attach (p : PortId) (tag role keepalive lossAction : Byte)
  /-- DETACH (R184). -/
  | detach (p : PortId) (tag : Byte)
  /-- STATUS (R194): `extra` is what its body carries beyond the code. -/
  | status (p : PortId) (tag : Byte) (extra : List Byte)
  /-- RESET_PORT (R185). -/
  | resetPort (p : PortId) (tag : Byte)
  /-- SET_FILTER (R197). -/
  | setFilter (p : PortId) (tag filter enabled mode areaValue areaMask classValue classMask : Byte)
  /-- SET_NOTICES (R201). -/
  | setNotices (p : PortId) (tag setting : Byte)
  /-- WAIT_SETTLED (R189). -/
  | waitSettled (p : PortId) (tag window timeout : Byte)
  /-- WAIT_TIMEOUT (R190). -/
  | waitTimeout (p : PortId)
  /-- PORT_LOSS (R187). -/
  | portLoss (p : PortId)
  /-- OPEN_WINDOW (R25, R26). -/
  | openWindow (p : PortId) (tag row col height width level : Byte)
  /-- CLOSE_WINDOW (R27). -/
  | closeWindow (p : PortId) (tag window : Byte)
  /-- MOVE_WINDOW (R29, R30). -/
  | moveWindow (p : PortId) (tag window row col level : Byte)
  /-- SET_WINDOW (R31 to R35). -/
  | setWindow (p : PortId) (tag window visible deferred writers : Byte)
  /-- WRITE_CELLS (R37, R38): `cells` are the bytes of the run, two a cell value. -/
  | writeCells (p : PortId) (tag window row col : Byte) (cells : List Byte)
  /-- FILL_CELLS (R39). -/
  | fillCells (p : PortId) (tag window row col height width glyph attr : Byte)
  /-- READ_CELLS (R40). -/
  | readCells (p : PortId) (tag window row col count : Byte)
  /-- FLUSH (R41). -/
  | flush (p : PortId) (tag window : Byte)
  /-- JOB_START (R54). -/
  | jobStart
  /-- JOB_COMPLETION (R56). -/
  | jobCompletion (e : EngineId)
  /-- FULL_REFRESH_EXPIRY (R65). -/
  | fullRefreshExpiry
  /-- FULL_REFRESH (R68, R69). -/
  | fullRefresh (p : PortId) (tag selector window : Byte)
  /-- SET_REFRESH_PERIOD (R66). -/
  | setRefreshPeriod (p : PortId) (tag minutes : Byte)
  /-- POWER_GOOD_ASSERTED (R78). -/
  | powerGoodAsserted
  /-- POWER_GOOD_LOST (R83). -/
  | powerGoodLost
  /-- RISE_TIMER_EXPIRY (R79). -/
  | riseTimerExpiry
  /-- HOLD_TIMER_EXPIRY (R82). -/
  | holdTimerExpiry
  /-- FALL_TIMER_EXPIRY (R82). -/
  | fallTimerExpiry
  /-- RETRY_TIMER_EXPIRY (R80). -/
  | retryTimerExpiry
  /-- SET_HOLD (R84). -/
  | setHold (p : PortId) (tag seconds : Byte)
  /-- CLEAR_DRIVE_FAULT (R85). -/
  | clearDriveFault (p : PortId) (tag : Byte)
  /-- RAISE_ALERT (R95 to R99). -/
  | raiseAlert (p : PortId) (tag code area cls severity lamp tone : Byte) (message : List Byte)
  /-- CLEAR_ALERT (R100). -/
  | clearAlert (p : PortId) (tag code : Byte)
  /-- ACK_ALERT (R102, R103). -/
  | ackAlert (p : PortId) (tag source code : Byte)
  /-- SHELVE_ALERT (R107). -/
  | shelveAlert (p : PortId) (tag source code : Byte) (seconds : BitVec 16)
  /-- UNSHELVE_ALERT (R108). -/
  | unshelveAlert (p : PortId) (tag source code : Byte)
  /-- SHELVING_EXPIRY (R109). -/
  | shelvingExpiry
  /-- LIST_ALERTS (R112, R208). -/
  | listAlerts (p : PortId) (tag start : Byte)
  /-- SET_BANNER (R128). -/
  | setBanner (p : PortId) (tag height : Byte)
  /-- PERIOD_END (R142, R143). -/
  | periodEnd
  /-- SET_TONE (R137). -/
  | setTone (p : PortId) (tag entry primary secondaryPresent secondary mix amplitude onTicks offTicks
      repeats : Byte)
  /-- CHIME (R146). -/
  | chime (p : PortId) (tag tone : Byte)
  /-- ACK_PRESS (R153). -/
  | ackPress
  /-- ACK_HOLD (R154). -/
  | ackHold
  /-- ACK_RELEASE (R152). -/
  | ackRelease
  /-- SILENCE_PRESS (R155). -/
  | silencePress
  /-- SILENCE_RELEASE (R152). -/
  | silenceRelease
  /-- TEST_PRESS (R156). -/
  | testPress
  /-- TEST_RELEASE (R156). -/
  | testRelease
  /-- PANEL_TEST (R157). -/
  | panelTest (p : PortId) (tag setting : Byte)
  /-- BLANK (R159). -/
  | blank (p : PortId) (tag setting : Byte)
  /-- TICK_EVENT (R163), with the levels at which the three key inputs are sampled (R151), true for PRESSED. -/
  | tickEvent (ack silence test : Bool)
  /-- SECOND_EVENT (R164). -/
  | secondEvent
  /-- BLINK_EVENT (R165). -/
  | blinkEvent
  /-- SET_TIME (R168). -/
  | setTime (p : PortId) (tag : Byte) (seconds : BitVec 32)
  deriving DecidableEq, Repr

end Sys2Proof
end

