-- ==== Sys2Proof/Decode.lean ====
section
/-!
DEFINITION. The command a word spells by the bits of spec/opcode_table.json. No row of the table gives
bits (98_reader.md: n_rows_with_fixed 0, n_rows_with_fields 0), so no word spells a command. The
layouts of request bodies (R205) are read in Machine/Carry.lean.
-/

namespace Sys2Proof

def decodeTableWord (_nbits _w : Nat) : Option Instr := none

end Sys2Proof
end

