-- ==== Sys2Proof/Machine/State.lean ====
section
/-!
DEFINITION. The state of the part, block by block as 00_scope.md lists the blocks, the reasons a step
can stop, and the state right after power-on reset. Every item cites the rule that names it.
Items the spec defines as functions of others (the free count, roles, the execution state, the two
Compositor flags, lamps, the banner, outputs) are derived in Machine/, not stored (log 15).
-/

namespace Sys2Proof.Machine

/-- Emphasis of a cell value (R3). -/
inductive Emphasis where
  | normal
  | inverse
  deriving DecidableEq, Repr

/-- A cell value (R3); `blink` is true for ON. -/
structure CellValue where
  glyph : Byte
  blink : Bool
  emphasis : Emphasis
  deriving DecidableEq, Repr

/-- Glyph 32, blink OFF, NORMAL (R3). -/
def background : CellValue := ⟨32, false, .normal⟩

/-- Glyph 127, blink OFF, NORMAL: the full block of panel test (R4). -/
def fullBlock : CellValue := ⟨127, false, .normal⟩

/-- A time stamp, seconds and tick (R166, Conventions). -/
structure Stamp where
  seconds : BitVec 32
  tick : Fin 64
  deriving DecidableEq, Repr

/-- The Time Base (R162). `phase` is true for ON. `secondDue` and `blinkDue` are the model's own: the
second or blink event of this moment is still to be handed on (log 2, log 7). -/
structure TimeBase where
  tick : Fin 64
  seconds : BitVec 32
  phase : Bool
  secondDue : Bool
  blinkDue : Bool
  deriving DecidableEq, Repr

/-- An OPEN window entry (R16). Content is row-major (R36). `published` is present exactly while the
window is deferred. `writers` holds bit n for Pn. -/
structure Window where
  owner : PortId
  row : Nat
  col : Nat
  height : Nat
  width : Nat
  level : Nat
  visible : Bool
  writers : BitVec 4
  working : List CellValue
  published : Option (List CellValue)
  deriving DecidableEq, Repr

/-- The state of a tile record, with pending since where R46 has it present. -/
inductive TileState where
  | unknown (since : Stamp)
  | settled
  | pending (since : Stamp)
  | driving
  deriving DecidableEq, Repr

/-- A tile record (R46). -/
structure TileRec where
  state : TileState
  partialCount : Nat
  fullDue : Bool
  deriving DecidableEq, Repr

/-- The waveforms PARTIAL and FULL (R52). -/
inductive Waveform where
  | partialDrive
  | fullDrive
  deriving DecidableEq, Repr

/-- The job record of a busy engine (R51). `frames` is frames remaining; 0 means that the last frame
has passed and the completion is due (log 2). -/
structure Job where
  tile : TileId
  waveform : Waveform
  snapshot : Vector CellValue 8
  frames : Nat
  deriving DecidableEq, Repr

/-- The rail state with the timer that R74 lets run in it; a timer at 0 is due to expire (log 2). -/
inductive RailState where
  | off
  /-- RISING, tick events of the rise timer to go. -/
  | rising (togo : Nat)
  /-- ON, the hold timer stopped or with tick events to go. -/
  | on (hold : Option Nat)
  /-- FALLING, tick events of the fall timer to go. -/
  | falling (togo : Nat)
  /-- FAULT, the retry timer stopped (locked) or with tick events to go. -/
  | fault (retry : Option Nat)
  deriving DecidableEq, Repr

/-- The Rail Controller (R74). -/
structure Rail where
  state : RailState
  attempts : Nat
  holdSetting : Nat
  deriving DecidableEq, Repr

/-- Severities in rising order (R88). -/
inductive Severity where
  | advisory
  | caution
  | warning
  deriving DecidableEq, Repr

/-- The source of a record (R88). -/
inductive Source where
  | port (p : PortId)
  | system
  deriving DecidableEq, Repr

/-- Who acknowledged (R88). -/
inductive Acker where
  | key
  | port (p : PortId)
  deriving DecidableEq, Repr

/-- The state of a record, with acknowledged and cleared at where R89 has them present. -/
inductive AlertState where
  | activeUnack
  | activeAck (by_ : Acker) (at_ : Stamp)
  | clearedUnack (at_ : Stamp)
  deriving DecidableEq, Repr

/-- The state's name alone, as notices and responses carry it (R113, R203). -/
inductive AlertStage where
  | activeUnack
  | activeAck
  | clearedUnack
  deriving DecidableEq, Repr

/-- An alert record (R88). -/
structure Alert where
  source : Source
  code : Byte
  area : Byte
  cls : Byte
  severity : Severity
  lamp : Option LampId
  tone : Option ToneId
  message : List Byte
  state : AlertState
  silenced : Bool
  shelved : Option (BitVec 32)
  occurrences : Nat
  raisedAt : Stamp
  deriving DecidableEq, Repr

/-- How two frequencies are combined (R133). -/
inductive Mix where
  | together
  | alternate
  deriving DecidableEq, Repr

/-- A tone entry (R133). -/
structure ToneEntry where
  primary : Byte
  secondary : Option Byte
  mix : Mix
  amplitude : Nat
  onTicks : Nat
  offTicks : Nat
  repeats : Nat
  deriving DecidableEq, Repr

/-- What a pattern plays for (R138, R141). SILENT is the absence of a pattern. A CHIME source is the
head of the queue. -/
inductive SoundSource where
  | test
  | alert (source : Source) (code : Byte)
  | chime
  deriving DecidableEq, Repr

/-- The phase of a pattern with its ticks left (R141); 0 left means the period's end is due (log 2). -/
inductive PatternPhase where
  | on (ticksLeft : Nat)
  | off (ticksLeft : Nat)
  | ended
  deriving DecidableEq, Repr

/-- The pattern record (R141). -/
structure Pattern where
  source : SoundSource
  entry : ToneId
  phase : PatternPhase
  completed : Nat
  deriving DecidableEq, Repr

/-- A key record (R150). `held` is the state HELD, `pressed` the pending level PRESSED. A debounce count
of 4 means that the change is due to be taken (log 2). -/
structure KeyRecord where
  held : Bool
  pressed : Bool
  debounce : Nat
  deriving DecidableEq, Repr

/-- The Key Scanner (R150). `holdDue`: the hold ticks have reached 128 and ACK_HOLD is due (log 2). -/
structure Keys where
  ack : KeyRecord
  silence : KeyRecord
  test : KeyRecord
  holdTicks : Nat
  holdDue : Bool
  deriving DecidableEq, Repr

/-- Port states (R176). -/
inductive PortState where
  | detached
  | attached
  | lost
  deriving DecidableEq, Repr

/-- Loss actions (R176). -/
inductive LossAction where
  | keep
  | close
  deriving DecidableEq, Repr

/-- The four flags of a port (R177). -/
structure PortFlags where
  rxError : Bool
  overrun : Bool
  noticesLost : Bool
  changesPending : Bool
  deriving DecidableEq, Repr

/-- The wait of a WAITING port (R176, R189), with the tag its response will carry (R192). -/
structure Wait where
  window : WindowId
  timeout : Nat
  count : Nat
  tag : Byte
  deriving DecidableEq, Repr

/-- Response statuses (R207). -/
inductive Status where
  | ok
  | unknownRequest
  | badLength
  | badValue
  | notAttached
  | notPermitted
  | roleTaken
  | notOwner
  | noWindow
  | noSpace
  | overlap
  | outOfPanel
  | outOfWindow
  | writeDenied
  | listFull
  | noAlert
  | full
  | timeout
  | windowGone
  deriving DecidableEq, Repr

/-- A queued response (R179, R207). `exec` tells the execution response from a STATUS response. -/
structure Response where
  exec : Bool
  tag : Byte
  code : Byte
  status : Status
  results : List Byte
  deriving DecidableEq, Repr

/-- Kinds of notice (R113). -/
inductive NoticeKind where
  | raised
  | reoccurred
  | escalated
  | acknowledged
  | cleared
  | shelved
  | unshelved
  deriving DecidableEq, Repr

/-- A notice (R113). -/
structure Notice where
  kind : NoticeKind
  source : Source
  code : Byte
  area : Byte
  cls : Byte
  severity : Severity
  stage : AlertStage
  removed : Bool
  ackBy : Option Acker
  time : Stamp
  deriving DecidableEq, Repr

/-- A notice in a notice queue, with the count that is its tag (R199, R200). -/
structure QueuedNotice where
  tag : Byte
  notice : Notice
  deriving DecidableEq, Repr

/-- Filter modes (R196). -/
inductive FilterMode where
  | area
  | cls
  | both
  deriving DecidableEq, Repr

/-- A notice filter (R196). -/
structure Filter where
  enabled : Bool
  mode : FilterMode
  areaValue : Byte
  areaMask : Byte
  clsValue : Byte
  clsMask : Byte
  deriving DecidableEq, Repr

/-- The transmitter: free, or sending the head of one of the two queues (R175, R192). -/
inductive Tx where
  | free
  | response
  | notice
  deriving DecidableEq, Repr

/-- How the last frame sent on a link ended (R175); the model's own record of that output (log 16). -/
inductive LineEnd where
  | none
  | flag
  | abort
  deriving DecidableEq, Repr

/-- A Port Unit: the port record of R176 and what stands beside it. -/
structure PortUnit where
  state : PortState
  keepalive : Nat
  lossAction : LossAction
  /-- Absent, or the second events counted since the last good frame (R186). -/
  keepaliveCount : Option Nat
  noticesEnabled : Bool
  flags : PortFlags
  wait : Option Wait
  noticeCount : Byte
  /-- The receive buffer: bodies of request frames, oldest first (R178). -/
  rx : List (List Byte)
  responses : List Response
  notices : List QueuedNotice
  filters : Vector Filter 4
  tx : Tx
  lineEnd : LineEnd
  deriving DecidableEq, Repr

/-- The state of the part. -/
structure State where
  time : TimeBase
  /-- W0 to W15, none for FREE (R16). -/
  windows : Vector (Option Window) 16
  /-- The panel values by tile and cell, none for unknown (R9). -/
  panel : Vector (Vector (Option CellValue) 8) 40
  /-- The tile records (R46). -/
  tiles : Vector TileRec 40
  /-- The engines, none for free (R51). -/
  engines : Vector (Option Job) 4
  /-- The full-refresh period in minutes, 0 for off (R64). -/
  refreshPeriod : Nat
  /-- The count of second events of that period (R64). -/
  refreshCount : Nat
  rail : Rail
  /-- The level of the power-good input (R75). -/
  powerGood : Bool
  /-- The alert list, oldest first (R90). -/
  alerts : List Alert
  /-- The model's own: a shelving expiry of this moment is still to be taken (log 2). -/
  shelvingDue : Bool
  /-- The band height (R120). -/
  bandHeight : Nat
  tones : Vector ToneEntry 8
  /-- The chime queue, head first (R145). -/
  chimes : List ToneId
  pattern : Option Pattern
  keys : Keys
  ports : Vector PortUnit 4
  /-- The supervisor, or none (R176). -/
  supervisor : Option PortId
  /-- The remote test flag (R157). -/
  remoteTest : Bool
  /-- The blank flag (R159). -/
  blank : Bool
  /-- The model's own: how many open orders have been drawn from Config.freeOrder (log 2). -/
  choices : Nat
  /-- The commands waiting, oldest first. -/
  pending : List Instr
  deriving DecidableEq, Repr

/-- Reasons for the machine to stop. There is none: no rule of the spec stops the part, and every
command is answered with a next state (log 22). -/
inductive Fault where
  deriving DecidableEq, Repr

/-- Reasons to give a command no meaning. -/
inductive Refusal where
  /-- Raised by an arm of exec whose command has no meaning yet; no arm does (safe). -/
  | notModelled (mnemonic : String)
  deriving DecidableEq, Repr

/-! ### Power-on reset -/

/-- The time after power-on reset, 0:0 (R162). -/
def stampZero : Stamp := ⟨0, 0⟩

/-- The filter of F0, F1 and F2 at their reset values (R196). -/
def filterOff : Filter := ⟨false, .area, 0, 0, 0, 0⟩

/-- F3 at its reset values (R196). -/
def filterSystem : Filter := ⟨true, .both, 255, 255, 255, 255⟩

/-- The reset values of the four filters (R196). -/
def filtersReset : Vector Filter 4 := #v[filterOff, filterOff, filterOff, filterSystem]

/-- A silent entry that ends after one tick event (R136: tone 0 and tones 5 to 7). -/
def toneSilent : ToneEntry := ⟨64, none, .together, 0, 1, 0, 1⟩

/-- The reset tone table (R136). -/
def tonesReset : Vector ToneEntry 8 :=
  #v[toneSilent,
     ⟨64, none, .together, 12, 16, 0, 1⟩,
     ⟨96, none, .together, 13, 32, 32, 0⟩,
     ⟨64, some 96, .alternate, 15, 16, 0, 0⟩,
     ⟨64, none, .together, 10, 32, 32, 0⟩,
     toneSilent, toneSilent, toneSilent]

/-- A key record at reset (R150). -/
def keyReset : KeyRecord := ⟨false, false, 0⟩

/-- All flags clear (R176). -/
def flagsClear : PortFlags := ⟨false, false, false, false⟩

/-- A Port Unit at reset (R176, R175, R178, R179, R196). -/
def portReset : PortUnit where
  state := .detached
  keepalive := 0
  lossAction := .keep
  keepaliveCount := none
  noticesEnabled := true
  flags := flagsClear
  wait := none
  noticeCount := 0
  rx := []
  responses := []
  notices := []
  filters := filtersReset
  tx := .free
  lineEnd := .none

/-- A tile record at reset (R48). -/
def tileReset : TileRec := ⟨.unknown stampZero, 0, false⟩

/-- What power-on reset sets in every block (R15, R17, R48, R74, R91, R120, R136, R141, R145, R150,
R157, R159, R162, R176), before the rail's rise of R77. -/
def State.resetValues : State where
  time := ⟨0, 0, true, false, false⟩
  windows := Vector.replicate 16 none
  panel := Vector.replicate 40 (Vector.replicate 8 none)
  tiles := Vector.replicate 40 tileReset
  engines := Vector.replicate 4 none
  refreshPeriod := 60
  refreshCount := 0
  rail := ⟨.off, 0, 3⟩
  powerGood := false
  alerts := []
  shelvingDue := false
  bandHeight := 1
  tones := tonesReset
  chimes := []
  pattern := none
  keys := ⟨keyReset, keyReset, keyReset, 0, false⟩
  ports := #v[portReset, portReset, portReset, portReset]
  supervisor := none
  remoteTest := false
  blank := false
  choices := 0
  pending := []

/-- The machine right after reset: the reset values, with the rail RISING, since every tile waits and
R77 has the rail go "from OFF to RISING at reset with no request needed" (R70; log 5). -/
def State.reset : State := { State.resetValues with rail := ⟨.rising 4, 0, 3⟩ }

end Sys2Proof.Machine
end

