-- ==== Sys2Proof/WellFormed.lean ====
section
/-!
DEFINITION. The length check and the range checks of admission (checks 3 and 4 of R181), request by
request, as R205 and R206 give them. A command is well-formed when its request passes both: a port
that makes an ill-formed one is answered BAD_LENGTH or BAD_VALUE (R181).
-/

namespace Sys2Proof

/-- The operand lies in 0 to `hi`. -/
def upTo (hi : Nat) (b : Byte) : Bool := decide (b.toNat ≤ hi)

/-- The operand lies in `lo` to `hi`. -/
def within (lo hi : Nat) (b : Byte) : Bool := decide (lo ≤ b.toNat ∧ b.toNat ≤ hi)

/-- The operand lies in 0 to `hi`, or is 255 for absent (R203). -/
def upToOrAbsent (hi : Nat) (b : Byte) : Bool := upTo hi b || b == 255

/-- Every second byte of the run is an attribute byte of 0 to 3 (R204). -/
def attributesOk : List Byte → Bool
  | _ :: a :: rest => upTo 3 a && attributesOk rest
  | _ => true

/-- The run of a WRITE_CELLS is 1 to 40 whole cell values (R205: body 8 to 86 and even). -/
def cellsLengthOk (cells : List Byte) : Bool :=
  decide (2 ≤ cells.length ∧ cells.length ≤ 80 ∧ cells.length % 2 = 0)

/-- The message of a RAISE_ALERT is 0 to 32 glyph codes (R205: body 9 to 41). -/
def messageLengthOk (message : List Byte) : Bool := decide (message.length ≤ 32)

/-- A source and code pair of ACK_ALERT, SHELVE_ALERT and UNSHELVE_ALERT (R206). -/
def sourceCodeOk (source code : Byte) : Bool :=
  upTo 4 source && (source != 4 || upTo 5 code)

/-! ### The ranges of R206, one definition per request that has any -/

def attachOk (role keepalive lossAction : Byte) : Bool :=
  upTo 1 role && upTo 60 keepalive && upTo 1 lossAction

def setFilterOk (filter enabled mode : Byte) : Bool :=
  upTo 3 filter && upTo 1 enabled && upTo 2 mode

def waitSettledOk (window timeout : Byte) : Bool := upTo 15 window && within 1 60 timeout

def openWindowOk (row col height width level : Byte) : Bool :=
  upTo 7 row && upTo 39 col && within 1 8 height && within 1 40 width && upTo 3 level

def moveWindowOk (window row col level : Byte) : Bool :=
  upTo 15 window && upTo 7 row && upTo 39 col && upTo 3 level

def setWindowOk (window visible deferred writers : Byte) : Bool :=
  upTo 15 window && upTo 1 visible && upTo 1 deferred && upTo 15 writers

def writeCellsOk (window row col : Byte) (cells : List Byte) : Bool :=
  upTo 15 window && upTo 7 row && upTo 39 col && attributesOk cells

def fillCellsOk (window row col height width attr : Byte) : Bool :=
  upTo 15 window && upTo 7 row && upTo 39 col && within 1 8 height && within 1 40 width && upTo 3 attr

def readCellsOk (window row col count : Byte) : Bool :=
  upTo 15 window && upTo 7 row && upTo 39 col && within 1 40 count

def fullRefreshOk (selector window : Byte) : Bool := upTo 1 selector && upTo 15 window

def raiseAlertOk (severity lamp tone : Byte) : Bool :=
  upTo 2 severity && upToOrAbsent 15 lamp && upToOrAbsent 7 tone

def shelveAlertOk (source code : Byte) (seconds : BitVec 16) : Bool :=
  sourceCodeOk source code && decide (1 ≤ seconds.toNat)

def setToneOk (entry secondaryPresent mix amplitude onTicks : Byte) : Bool :=
  upTo 7 entry && upTo 1 secondaryPresent && upTo 1 mix && upTo 15 amplitude && within 1 255 onTicks

/-- The command's request passes the length and range checks of admission; a command that is no
request has no operand to check, but for the line bits of a frame, which no rule restricts. -/
def Instr.wellFormed : Instr → Bool
  | .powerOnReset => true
  | .frameReceived _ _ => true
  | .takeRequest _ => true
  | .transmissionStart _ => true
  | .transmissionEnd _ => true
  | .attach _ _ role keepalive lossAction => attachOk role keepalive lossAction
  | .detach _ _ => true
  | .status _ _ extra => extra.isEmpty
  | .resetPort _ _ => true
  | .setFilter _ _ filter enabled mode _ _ _ _ => setFilterOk filter enabled mode
  | .setNotices _ _ setting => upTo 1 setting
  | .waitSettled _ _ window timeout => waitSettledOk window timeout
  | .waitTimeout _ => true
  | .portLoss _ => true
  | .openWindow _ _ row col height width level => openWindowOk row col height width level
  | .closeWindow _ _ window => upTo 15 window
  | .moveWindow _ _ window row col level => moveWindowOk window row col level
  | .setWindow _ _ window visible deferred writers => setWindowOk window visible deferred writers
  | .writeCells _ _ window row col cells => cellsLengthOk cells && writeCellsOk window row col cells
  | .fillCells _ _ window row col height width _ attr => fillCellsOk window row col height width attr
  | .readCells _ _ window row col count => readCellsOk window row col count
  | .flush _ _ window => upTo 15 window
  | .jobStart => true
  | .jobCompletion _ => true
  | .fullRefreshExpiry => true
  | .fullRefresh _ _ selector window => fullRefreshOk selector window
  | .setRefreshPeriod _ _ minutes => upTo 240 minutes
  | .powerGoodAsserted => true
  | .powerGoodLost => true
  | .riseTimerExpiry => true
  | .holdTimerExpiry => true
  | .fallTimerExpiry => true
  | .retryTimerExpiry => true
  | .setHold _ _ seconds => within 1 60 seconds
  | .clearDriveFault _ _ => true
  | .raiseAlert _ _ _ _ _ severity lamp tone message =>
      messageLengthOk message && raiseAlertOk severity lamp tone
  | .clearAlert _ _ _ => true
  | .ackAlert _ _ source code => sourceCodeOk source code
  | .shelveAlert _ _ source code seconds => shelveAlertOk source code seconds
  | .unshelveAlert _ _ source code => sourceCodeOk source code
  | .shelvingExpiry => true
  | .listAlerts _ _ start => upTo 37 start
  | .setBanner _ _ height => within 1 2 height
  | .periodEnd => true
  | .setTone _ _ entry _ secondaryPresent _ mix amplitude onTicks _ _ =>
      setToneOk entry secondaryPresent mix amplitude onTicks
  | .chime _ _ tone => within 1 7 tone
  | .ackPress => true
  | .ackHold => true
  | .ackRelease => true
  | .silencePress => true
  | .silenceRelease => true
  | .testPress => true
  | .testRelease => true
  | .panelTest _ _ setting => upTo 1 setting
  | .blank _ _ setting => upTo 1 setting
  | .tickEvent _ _ _ => true
  | .secondEvent => true
  | .blinkEvent => true
  | .setTime _ _ _ => true

end Sys2Proof
end

