-- ==== Sys2Proof/Machine/Operands.lean ====
section
/-!
DEFINITION. Every operand and result encoding of chapter 11: the common encodings of R203, cell values
(R204), request codes (R205), statuses (R207), record and notice images (R208).
-/

namespace Sys2Proof.Machine

/-! ### Common encodings (R203) -/

def portByte (p : PortId) : Byte := byteOf p.val

def Source.byte : Source → Byte
  | .port p => portByte p
  | .system => 4

/-- Acknowledged by: 0 to 3, 4 for KEY, 255 for absent. -/
def ackByte : Option Acker → Byte
  | none => 255
  | some .key => 4
  | some (.port p) => portByte p

def Severity.byte : Severity → Byte
  | .advisory => 0
  | .caution => 1
  | .warning => 2

/-- ADVISORY, CAUTION, WARNING in rising order (R88). -/
def Severity.rank : Severity → Nat
  | .advisory => 0
  | .caution => 1
  | .warning => 2

def AlertStage.byte : AlertStage → Byte
  | .activeUnack => 0
  | .activeAck => 1
  | .clearedUnack => 2

def boolByte (b : Bool) : Byte := if b then 1 else 0

/-- A number, or 255 for absent: lamps and tones. -/
def optByte {n : Nat} : Option (Fin n) → Byte
  | none => 255
  | some i => byteOf i.val

/-- A time stamp: 4 bytes of seconds, low byte first, then the tick. -/
def Stamp.bytes (t : Stamp) : List Byte := bytesOf32 t.seconds ++ [byteOf t.tick.val]

def PortState.byte : PortState → Byte
  | .detached => 0
  | .attached => 1
  | .lost => 2

/-! ### Reading operands -/

/-- A port number operand, the byte taken modulo 4; admission has checked its range (R206). -/
def portOf (b : Byte) : PortId := ⟨b.toNat % 4, Nat.mod_lt _ (by decide)⟩

def windowOf (b : Byte) : WindowId := ⟨b.toNat % 16, Nat.mod_lt _ (by decide)⟩

def toneOf (b : Byte) : ToneId := ⟨b.toNat % 8, Nat.mod_lt _ (by decide)⟩

/-- A source operand: 4 for SYSTEM. -/
def sourceOf (b : Byte) : Source := if b = 4 then .system else .port (portOf b)

def severityOf (b : Byte) : Severity :=
  if b = 0 then .advisory else if b = 1 then .caution else .warning

def lampOf (b : Byte) : Option LampId :=
  if b = 255 then none else some ⟨b.toNat % 16, Nat.mod_lt _ (by decide)⟩

def toneOrAbsent (b : Byte) : Option ToneId := if b = 255 then none else some (toneOf b)

def filterModeOf (b : Byte) : FilterMode :=
  if b = 0 then .area else if b = 1 then .cls else .both

/-- YES or ON for 1. -/
def yes (b : Byte) : Bool := b == 1

/-! ### Cell values (R204) -/

def cellOf (glyph attr : Byte) : CellValue :=
  ⟨glyph, attr.getLsbD 0, if attr.getLsbD 1 then .inverse else .normal⟩

def CellValue.attrByte (c : CellValue) : Byte :=
  (if c.blink then 1 else 0) + (if c.emphasis = .inverse then 2 else 0)

def CellValue.bytes (c : CellValue) : List Byte := [c.glyph, c.attrByte]

/-- The cell values of a run, two bytes each; a part of one at the end is dropped (admission refuses it). -/
def cellsOf : List Byte → List CellValue
  | g :: a :: rest => cellOf g a :: cellsOf rest
  | _ => []

/-! ### Request codes (R205) -/

inductive RequestCode where
  | attach
  | detach
  | status
  | resetPort
  | setFilter
  | setNotices
  | waitSettled
  | openWindow
  | closeWindow
  | moveWindow
  | setWindow
  | writeCells
  | fillCells
  | readCells
  | flush
  | fullRefresh
  | setRefreshPeriod
  | setHold
  | clearDriveFault
  | raiseAlert
  | clearAlert
  | ackAlert
  | shelveAlert
  | unshelveAlert
  | listAlerts
  | setBanner
  | setTone
  | chime
  | panelTest
  | blank
  | setTime
  deriving DecidableEq, Repr

/-- The code of a request. -/
def RequestCode.byte : RequestCode → Byte
  | .attach => 1
  | .detach => 2
  | .status => 3
  | .resetPort => 4
  | .setFilter => 5
  | .setNotices => 6
  | .waitSettled => 7
  | .openWindow => 16
  | .closeWindow => 17
  | .moveWindow => 18
  | .setWindow => 19
  | .writeCells => 20
  | .fillCells => 21
  | .readCells => 22
  | .flush => 23
  | .fullRefresh => 32
  | .setRefreshPeriod => 33
  | .setHold => 34
  | .clearDriveFault => 35
  | .raiseAlert => 48
  | .clearAlert => 49
  | .ackAlert => 50
  | .shelveAlert => 51
  | .unshelveAlert => 52
  | .listAlerts => 53
  | .setBanner => 64
  | .setTone => 65
  | .chime => 66
  | .panelTest => 67
  | .blank => 68
  | .setTime => 69

/-- Every request code. -/
def RequestCode.all : List RequestCode :=
  [.attach, .detach, .status, .resetPort, .setFilter, .setNotices, .waitSettled, .openWindow,
   .closeWindow, .moveWindow, .setWindow, .writeCells, .fillCells, .readCells, .flush, .fullRefresh,
   .setRefreshPeriod, .setHold, .clearDriveFault, .raiseAlert, .clearAlert, .ackAlert, .shelveAlert,
   .unshelveAlert, .listAlerts, .setBanner, .setTone, .chime, .panelTest, .blank, .setTime]

/-- The request a code names, none for a code that is not in the table of R205. -/
def RequestCode.ofByte (b : Byte) : Option RequestCode := RequestCode.all.find? fun c => c.byte == b

/-! ### Statuses (R207) -/

def Status.byte : Status → Byte
  | .ok => 0
  | .unknownRequest => 1
  | .badLength => 2
  | .badValue => 3
  | .notAttached => 4
  | .notPermitted => 5
  | .roleTaken => 6
  | .notOwner => 7
  | .noWindow => 8
  | .noSpace => 10
  | .overlap => 11
  | .outOfPanel => 12
  | .outOfWindow => 13
  | .writeDenied => 14
  | .listFull => 15
  | .noAlert => 16
  | .full => 17
  | .timeout => 18
  | .windowGone => 19

/-! ### Bodies the part sends -/

/-- The body of a response (R203, R207). -/
def Response.body (r : Response) : List Byte := [2, r.tag, r.code, r.status.byte] ++ r.results

def AlertState.stage : AlertState → AlertStage
  | .activeUnack => .activeUnack
  | .activeAck _ _ => .activeAck
  | .clearedUnack _ => .clearedUnack

/-- The acknowledger, where the acknowledged field is present (R89). -/
def AlertState.ackBy : AlertState → Option Acker
  | .activeAck b _ => some b
  | _ => none

/-- The one stamp of a record image (R208): acknowledged at, cleared at, or all 0. -/
def AlertState.stamp : AlertState → Stamp
  | .activeUnack => ⟨0, 0⟩
  | .activeAck _ t => t
  | .clearedUnack t => t

/-- The image of an alert record (R208). -/
def Alert.image (a : Alert) : List Byte :=
  [a.source.byte, a.code, a.area, a.cls, a.severity.byte, a.state.stage.byte,
   boolByte a.silenced + (if a.shelved.isSome then 2 else 0),
   optByte a.lamp, optByte a.tone, byteOf a.occurrences, ackByte a.state.ackBy]
  ++ bytesOf32 (a.shelved.getD 0) ++ a.raisedAt.bytes ++ a.state.stamp.bytes
  ++ [byteOf a.message.length] ++ a.message

def NoticeKind.byte : NoticeKind → Byte
  | .raised => 1
  | .reoccurred => 2
  | .escalated => 3
  | .acknowledged => 4
  | .cleared => 5
  | .shelved => 6
  | .unshelved => 7

/-- The body of a notice frame (R208). -/
def QueuedNotice.body (q : QueuedNotice) : List Byte :=
  [3, q.tag, q.notice.kind.byte, q.notice.source.byte, q.notice.code, q.notice.area, q.notice.cls,
   q.notice.severity.byte, q.notice.stage.byte, boolByte q.notice.removed, ackByte q.notice.ackBy]
  ++ q.notice.time.bytes

end Sys2Proof.Machine
end

