-- ==== Sys2Proof/Machine/Flags.lean ====
section
/-!
DEFINITION. The four flags of a port (R177) and the flags byte of the STATUS report (R207), and the
matching of notice filters (R196, R198).
-/

namespace Sys2Proof.Machine

/-- RX_ERROR set (R174). -/
def PortUnit.setRxError (u : PortUnit) : PortUnit := { u with flags := { u.flags with rxError := true } }

/-- OVERRUN set (R178, R179). -/
def PortUnit.setOverrun (u : PortUnit) : PortUnit := { u with flags := { u.flags with overrun := true } }

/-- NOTICES_LOST set (R199). -/
def PortUnit.setNoticesLost (u : PortUnit) : PortUnit :=
  { u with flags := { u.flags with noticesLost := true } }

/-- CHANGES_PENDING set (R199, R201). -/
def PortUnit.setChangesPending (u : PortUnit) : PortUnit :=
  { u with flags := { u.flags with changesPending := true } }

/-- The flags byte of the report: bit 0 RX_ERROR, bit 1 OVERRUN, bit 2 NOTICES_LOST, bit 3
CHANGES_PENDING (R207). -/
def PortFlags.byte (f : PortFlags) : Byte :=
  byteOf ((if f.rxError then 1 else 0) + (if f.overrun then 2 else 0)
    + (if f.noticesLost then 4 else 0) + (if f.changesPending then 8 else 0))

/-- A tag matches a value under a mask when they agree wherever the mask holds a 1 (R196). -/
def tagMatches (tag value mask : Byte) : Bool := tag &&& mask == value &&& mask

/-- A filter matches a record with this area and class (R196). -/
def Filter.hits (f : Filter) (area cls : Byte) : Bool :=
  f.enabled && match f.mode with
    | .area => tagMatches area f.areaValue f.areaMask
    | .cls => tagMatches cls f.clsValue f.clsMask
    | .both => tagMatches area f.areaValue f.areaMask && tagMatches cls f.clsValue f.clsMask

/-- Port `p` receives the notice (R198). -/
def PortUnit.receives (p : PortId) (n : Notice) (u : PortUnit) : Bool :=
  decide (u.state = .attached) &&
    (decide (n.source = .port p) || u.filters.toList.any (fun f => f.hits n.area n.cls)
      || u.filters.toList.all fun f => !f.enabled)

end Sys2Proof.Machine
end

