-- ==== Sys2Proof/Machine/Ops.lean ====
section
/-!
DEFINITION. The named operations over the Time Base's time, the Port Units, the window table and the
panel's geometry. Queueing a request's answer and delivering a notice are here.
-/

namespace Sys2Proof.Machine

/-- The outcome type of every meaning. -/
abbrev Out := Host.Outcome State Fault Refusal

/-! ### Time (R166) -/

/-- The time of the Time Base as it stands. -/
def State.now (s : State) : Stamp := ⟨s.time.seconds, s.time.tick⟩

/-- Stamps are compared seconds first, then tick, as unsigned numbers (R63, R166). -/
def Stamp.before (a b : Stamp) : Bool :=
  decide (a.seconds.toNat < b.seconds.toNat ∨ (a.seconds.toNat = b.seconds.toNat ∧ a.tick.val < b.tick.val))

/-! ### Port Units -/

/-- Change one Port Unit. -/
def State.modifyPort (p : PortId) (f : PortUnit → PortUnit) (s : State) : State :=
  { s with ports := s.ports.set p (f s.ports[p]) }

/-- Change all four Port Units, each by its own number. -/
def State.mapPorts (f : PortId → PortUnit → PortUnit) (s : State) : State :=
  { s with ports := #v[f 0 s.ports[0], f 1 s.ports[1], f 2 s.ports[2], f 3 s.ports[3]] }

/-- The port holds the SUPERVISOR role (R176: exactly while it is the supervisor). -/
def State.isSupervisor (s : State) (p : PortId) : Bool := decide (s.supervisor = some p)

/-- The execution state is READY (R176: the wait is present while WAITING, and absent while READY). -/
def PortUnit.ready (u : PortUnit) : Bool := u.wait.isNone

/-- An execution response is in the response queue (R179). -/
def PortUnit.hasExecResponse (u : PortUnit) : Bool := u.responses.any (·.exec)

/-- The number of STATUS responses in the response queue (R179). -/
def PortUnit.statusResponses (u : PortUnit) : Nat := (u.responses.filter fun r => !r.exec).length

/-- The keepalive count has reached the keepalive: the loss of the port is due (R186; log 2). With a keepalive of
1 that is so at the first second event after a good frame, however short before it the frame came: the model's
choice (log 25). -/
def PortUnit.lossDue (u : PortUnit) : Bool :=
  decide (u.state = .attached) && match u.keepaliveCount with
    | some c => decide (u.keepalive ≤ c)
    | none => false

/-- The wait count has reached the timeout: the end of the wait is due (R190; log 2). -/
def PortUnit.timeoutDue (u : PortUnit) : Bool :=
  match u.wait with
  | some w => decide (w.timeout ≤ w.count)
  | none => false

/-- The port can take a request: READY and no execution response queued (R180), and not about to be
lost by a second event it has already counted (log 8). -/
def PortUnit.canTake (u : PortUnit) : Bool := u.ready && !u.hasExecResponse && !u.lossDue

/-- Place the execution response of a request in the response queue (R180, R207). -/
def PortUnit.answer (tag code : Byte) (st : Status) (results : List Byte) (u : PortUnit) : PortUnit :=
  { u with responses := u.responses ++ [⟨true, tag, code, st, results⟩] }

/-- The notice queue emptied, except a notice in transmission, which stays until its end (R184, R185,
R192, R193; log 10). -/
def PortUnit.emptyNotices (u : PortUnit) : PortUnit :=
  { u with notices := if u.tx = .notice then u.notices.take 1 else [] }

/-- Filters, notices enabled and notice count take their reset values (R184, R185, R182, R196, R200, R201). -/
def PortUnit.resetNotices (u : PortUnit) : PortUnit :=
  { u with filters := filtersReset, noticesEnabled := true, noticeCount := 0 }

/-- A Port Unit takes a notice handed to it (R199, R200). -/
def PortUnit.takeNotice (p : PortId) (n : Notice) (u : PortUnit) : PortUnit :=
  if u.receives p n then
    let c := u.noticeCount + 1
    if u.noticesEnabled then
      if u.notices.length < 8 then { u with noticeCount := c, notices := u.notices ++ [⟨c, n⟩] }
      else { u with noticeCount := c }.setNoticesLost
    else { u with noticeCount := c }.setChangesPending
  else u

/-- The Alert List hands a notice to all four Port Units (R115, R199). -/
def State.deliver (n : Notice) (s : State) : State := s.mapPorts fun p u => u.takeNotice p n

/-- A free transmitter begins the oldest response, or else the oldest notice (R192). -/
def PortUnit.startTx (u : PortUnit) : PortUnit :=
  if u.tx = .free then
    if u.responses.isEmpty then
      if u.notices.isEmpty then u else { u with tx := .notice }
    else { u with tx := .response }
  else u

/-- After an event has been taken whole, every free transmitter with a frame waiting begins one (R192). -/
def State.finish (s : State) : State := s.mapPorts fun _ u => u.startTx

/-! ### Requests -/

/-- What a request's block answers: nothing yet (a WAIT_SETTLED that waits), or a status with results. -/
abbrev Reply := Option (Status × List Byte)

/-- Queue a reply at port `p`. -/
def State.reply (p : PortId) (tag : Byte) (rc : RequestCode) (r : Reply) (s : State) : State :=
  match r with
  | none => s
  | some (st, results) => s.modifyPort p (·.answer tag rc.byte st results)

/-- Answer with a status alone (R207: a refusal carries no results). -/
def State.refuse (p : PortId) (tag code : Byte) (st : Status) (s : State) : State :=
  s.modifyPort p (·.answer tag code st [])

/-! ### Rectangles and tiles (R1, R2) -/

/-- A rectangle of the panel. -/
structure Rect where
  row : Nat
  col : Nat
  height : Nat
  width : Nat
  deriving DecidableEq, Repr

/-- The rectangle holds the panel cell. -/
def Rect.holds (r : Rect) (row col : Nat) : Bool :=
  decide (r.row ≤ row ∧ row < r.row + r.height ∧ r.col ≤ col ∧ col < r.col + r.width)

/-- The rectangle lies inside the panel (R1). -/
def Rect.inPanel (r : Rect) : Bool := decide (r.row + r.height ≤ 8 ∧ r.col + r.width ≤ 40)

/-- Two rectangles share a cell. -/
def Rect.meets (a b : Rect) : Bool :=
  decide (a.row < b.row + b.height ∧ b.row < a.row + a.height ∧
    a.col < b.col + b.width ∧ b.col < a.col + a.width)

/-- The row of tile n (R2). -/
def tileRow (n : TileId) : Nat := n.val / 5

/-- The first column of tile n (R2). -/
def tileCol (n : TileId) : Nat := 8 * (n.val % 5)

/-- The rectangle touches the tile: a cell of it lies in the tile (R2). -/
def Rect.touches (r : Rect) (n : TileId) : Bool :=
  r.meets ⟨tileRow n, tileCol n, 1, 8⟩

/-- The tiles a rectangle touches, in number order. -/
def Rect.tiles (r : Rect) : List TileId := tileIds.filter r.touches

/-! ### Windows and the cell pool -/

def Window.rect (w : Window) : Rect := ⟨w.row, w.col, w.height, w.width⟩

/-- A window's area (R16). -/
def Window.area (w : Window) : Nat := w.height * w.width

/-- Deferred is YES exactly while the published copy is present (R16). -/
def Window.deferred (w : Window) : Bool := w.published.isSome

/-- The content a window composes (R5): the published copy if deferred, else the working content. -/
def Window.shown (w : Window) : List CellValue := w.published.getD w.working

/-- The cells of the pool a window consumes (R19). -/
def Window.consumption (w : Window) : Nat := if w.deferred then 2 * w.area else w.area

/-- The consumption of all OPEN windows (R19). -/
def consumed (ws : Vector (Option Window) 16) : Nat :=
  (ws.toList.map fun e => match e with
    | some w => w.consumption
    | none => 0).sum

/-- The free count: 1024 minus the consumption of all OPEN windows (R19). -/
def State.freeCells (s : State) : Nat := 1024 - consumed s.windows

/-- The port may write, fill and flush the window (R21): owner or in the writers set. -/
def Window.mayWrite (w : Window) (p : PortId) : Bool := decide (w.owner = p) || w.writers.getLsbD p.val

/-- An OPEN window other than `skip` at the level shares a cell with the rectangle (R18, R25, R29). -/
def State.overlaps (s : State) (skip : Option WindowId) (level : Nat) (r : Rect) : Bool :=
  windowIds.any fun i => match s.windows[i] with
    | some w => decide (skip ≠ some i) && decide (w.level = level) && w.rect.meets r
    | none => false

/-- The lowest-numbered FREE entry (R26). -/
def State.freeEntry (s : State) : Option WindowId := windowIds.find? fun i => s.windows[i].isNone

/-- Put a value in a window entry. -/
def State.setEntry (i : WindowId) (e : Option Window) (s : State) : State :=
  { s with windows := s.windows.set i e }

/-- Content with a run written from a position (R36, R38). -/
def writeRun (content : List CellValue) (start : Nat) (run : List CellValue) : List CellValue :=
  content.take start ++ run ++ content.drop (start + run.length)

/-- Content with a rectangle, in window coordinates, set to one value (R39). -/
def fillRect (content : List CellValue) (width : Nat) (r : Rect) (v : CellValue) : List CellValue :=
  content.mapIdx fun i c => if r.holds (i / width) (i % width) then v else c

/-- A start and run lie inside the window (R37, R40): start row and column inside, and the run's last
position is at most area − 1. -/
def Window.runInside (w : Window) (row col count : Nat) : Bool :=
  decide (row < w.height ∧ col < w.width ∧ row * w.width + col + count ≤ w.area)

end Sys2Proof.Machine
end

