-- ==== Sys2Proof/Machine/Compose.lean ====
section
/-!
DEFINITION. What is derived for the eye: the banner (R120 to R126), the composed value of a cell (R4 to
R8), staleness (R10), and the lamps (R14, R130).
-/

namespace Sys2Proof.Machine

/-! ### The banner -/

/-- Eligible for the banner (R121): ACTIVE_UNACK or CLEARED_UNACK and not shelved. -/
def Alert.eligible (a : Alert) : Bool :=
  a.shelved.isNone && match a.state with
    | .activeAck _ _ => false
    | _ => true

/-- The records of one severity, in list order. -/
def ofSeverity (v : Severity) (l : List Alert) : List Alert := l.filter fun a => decide (a.severity = v)

/-- Records by severity, WARNING first, and within a severity by position (R122, R138). -/
def bySeverity (l : List Alert) : List Alert :=
  ofSeverity .warning l ++ ofSeverity .caution l ++ ofSeverity .advisory l

/-- The eligible records in selection order (R122). -/
def selection (alerts : List Alert) : List Alert := bySeverity (alerts.filter Alert.eligible)

/-- The banner is showing (R121). -/
def State.bannerShowing (s : State) : Bool := s.alerts.any Alert.eligible

/-- The first selected record (R122). -/
def State.firstSelected (s : State) : Option Alert := (selection s.alerts).head?

/-- What the band shows (R123, R126): the records of its rows and the number of the count field. -/
structure Band where
  height : Nat
  first : Alert
  second : Option Alert
  count : Nat
  deriving DecidableEq, Repr

/-- The band, none while the banner is not showing (R121, R123, R126). -/
def bandOf (alerts : List Alert) (height : Nat) : Option Band :=
  match selection alerts with
  | [] => none
  | a :: rest => some ⟨height, a, rest.head?, rest.length + 1 - height⟩

/-- The severity tag: "ADV", "CAU", "WRN" (R124), in the codes of R3. -/
def Severity.tag : Severity → List Byte
  | .advisory => [65, 68, 86]
  | .caution => [67, 65, 85]
  | .warning => [87, 82, 78]

/-- The glyph of an alert row in columns 0 to 36 (R124). -/
def alertGlyph (a : Alert) (col : Nat) : Byte :=
  if col < 3 then a.severity.tag.getD col 32
  else if col < 4 then 32
  else if col < 36 then a.message.getD (col - 4) 32
  else 32

/-- A cell of an alert row, columns 0 to 36, with the attributes of R125. -/
def alertCell (a : Alert) (col : Nat) : CellValue :=
  if col < 36 then
    match a.state with
    | .clearedUnack _ => ⟨alertGlyph a col, false, .inverse⟩
    | _ => ⟨alertGlyph a col, true, .normal⟩
  else background

/-- The count field, columns 37 to 39 of the last band row (R126). -/
def countGlyph (count col : Nat) : Byte :=
  if count = 0 then 32
  else if col = 37 then 43
  else if col = 38 then byteOf (48 + count / 10)
  else byteOf (48 + count % 10)

/-- The record of a band row (R123). -/
def Band.rowRecord (b : Band) (row : Nat) : Option Alert := if row = 0 then some b.first else b.second

/-- The banner's value for a cell of the band (R123 to R126). -/
def Band.cell (b : Band) (row col : Nat) : CellValue :=
  if 37 ≤ col then
    if row + 1 = b.height then ⟨countGlyph b.count col, false, .normal⟩ else background
  else match b.rowRecord row with
    | some a => alertCell a col
    | none => background

/-! ### Composition -/

/-- The inputs of composition (R4): overlays, banner, windows, blink phase. -/
structure View where
  test : Bool
  blank : Bool
  band : Option Band
  windows : List (Option Window)
  phase : Bool
  deriving DecidableEq, Repr

/-- Panel test active: the OR of the key test flag and the remote test flag (R7, R156). -/
def State.panelTest (s : State) : Bool := s.keys.test.held || s.remoteTest

/-- The inputs of composition as they stand. -/
def State.view (s : State) : View :=
  ⟨s.panelTest, s.blank, bandOf s.alerts s.bandHeight, s.windows.toList, s.time.phase⟩

/-- The taking-part window of highest level that covers the cell (R5). -/
def topWindow (ws : List (Option Window)) (row col : Nat) : Option Window :=
  ws.foldl (fun best e => match e with
    | some w =>
      if w.visible && w.rect.holds row col then
        match best with
        | none => some w
        | some b => if b.level < w.level then some w else best
      else best
    | none => best) none

/-- Orders 4 and 5 of R4: the published value of the top window, or background. -/
def windowCell (ws : List (Option Window)) (row col : Nat) : CellValue :=
  match topWindow ws row col with
  | some w => w.shown.getD ((row - w.row) * w.width + (col - w.col)) background
  | none => background

/-- The selected value of a cell (R4). -/
def View.selected (v : View) (row col : Nat) : CellValue :=
  if v.test then fullBlock
  else if v.blank then background
  else match v.band with
    | some b => if row < b.height then b.cell row col else windowCell v.windows row col
    | none => windowCell v.windows row col

/-- The selected value as altered by the blink phase (R8). -/
def blinked (phase : Bool) (c : CellValue) : CellValue :=
  if !phase && c.blink then { c with glyph := 32 } else c

/-- The composed value of a cell (R4, R8). -/
def View.composed (v : View) (row col : Nat) : CellValue := blinked v.phase (v.selected row col)

/-- The composed values of a tile's eight cells, left to right (R13). -/
def View.tile (v : View) (n : TileId) : Vector CellValue 8 :=
  let c := fun k => v.composed (tileRow n) (tileCol n + k)
  #v[c 0, c 1, c 2, c 3, c 4, c 5, c 6, c 7]

/-- Cell values as known panel values. -/
def known (t : Vector CellValue 8) : Vector (Option CellValue) 8 :=
  #v[some t[0], some t[1], some t[2], some t[3], some t[4], some t[5], some t[6], some t[7]]

/-- The panel values of a tile whose content is unknown (R9). -/
def unknownCells : Vector (Option CellValue) 8 := Vector.replicate 8 none

/-- A tile is stale when one of its panel values is unknown or differs from its composed value (R10). -/
def tileStale (v : View) (panel : Vector (Vector (Option CellValue) 8) 40) (n : TileId) : Bool :=
  decide (panel[n] ≠ known (v.tile n))

/-- All forty tiles: the cells an overlay or a blink event re-evaluates (R11). -/
def allTiles : List TileId := tileIds

/-- The tiles of rows 0 and 1: the cells a banner event can change (R11, R127, R128). -/
def bandTiles : List TileId := Rect.tiles ⟨0, 0, 2, 40⟩

/-! ### Lamps (R14, R130, R131) -/

inductive LampState where
  | off
  | on
  | flash
  deriving DecidableEq, Repr

/-- The derived state of a lamp (R130). -/
def State.lamp (s : State) (l : LampId) : LampState :=
  if s.panelTest then .on
  else if s.alerts.any fun a => decide (a.lamp = some l ∧ a.state = .activeUnack ∧ a.shelved = none) then .flash
  else if s.alerts.any fun a => decide (a.lamp = some l) then .on
  else .off

/-- The lamp output: lit or dark (R14). -/
def State.lampLit (s : State) (l : LampId) : Bool :=
  match s.lamp l with
  | .off => false
  | .on => true
  | .flash => s.time.phase

end Sys2Proof.Machine
end

