-- ==== Sys2Proof/Machine/AlertOps.lean ====
section
/-!
DEFINITION. The Alert List's operations on records and the notices they hand (chapter The Alert List).
What the list's neighbours derive afterwards is in Machine/Events.lean.
-/

namespace Sys2Proof.Machine

/-- The record with this source and code (R90). -/
def Alert.isFor (src : Source) (code : Byte) (a : Alert) : Bool := decide (a.source = src ∧ a.code = code)

/-- The record is a port's (R91). -/
def Alert.ofPort (a : Alert) : Bool := decide (a.source ≠ .system)

/-- The port record count (R91). -/
def portCount (l : List Alert) : Nat := (l.filter Alert.ofPort).length

/-- The record under a source and code, if present. -/
def State.record (s : State) (src : Source) (code : Byte) : Option Alert := s.alerts.find? (·.isFor src code)

/-- A record's position: the count of older records still present (R88, R90). -/
def State.position (s : State) (src : Source) (code : Byte) : Nat := s.alerts.findIdx (·.isFor src code)

/-- Change the record under a source and code in its place (R90). -/
def State.changeRecord (src : Source) (code : Byte) (f : Alert → Alert) (s : State) : State :=
  { s with alerts := s.alerts.map fun a => if a.isFor src code then f a else a }

/-- Take the record out of the list and close the gap (R90, R101). -/
def State.removeRecord (src : Source) (code : Byte) (s : State) : State :=
  { s with alerts := s.alerts.filter fun a => !a.isFor src code }

/-- The notice of a change (R113): the record's values after the change, or those it held when removed. -/
def noticeOf (kind : NoticeKind) (a : Alert) (removed : Bool) (ackBy : Option Acker) (time : Stamp) : Notice :=
  ⟨kind, a.source, a.code, a.area, a.cls, a.severity, a.state.stage, removed, ackBy, time⟩

/-- Hand the notice of a change that leaves the record present (R113, R115). -/
def State.noticeKept (kind : NoticeKind) (a : Alert) (s : State) : State :=
  s.deliver (noticeOf kind a false a.state.ackBy s.now)

/-- Hand the notice of a change that removed the record (R113, R101). -/
def State.noticeRemoved (kind : NoticeKind) (a : Alert) (ackBy : Option Acker) (s : State) : State :=
  s.deliver (noticeOf kind a true ackBy s.now)

/-! ### Raising (R95 to R99) -/

/-- What a raise carries beside its source and code (R95). -/
structure RaiseArgs where
  area : Byte
  cls : Byte
  severity : Severity
  lamp : Option LampId
  tone : Option ToneId
  message : List Byte
  deriving DecidableEq, Repr

/-- A new record (R95). -/
def newAlert (src : Source) (code : Byte) (x : RaiseArgs) (t : Stamp) : Alert where
  source := src
  code := code
  area := x.area
  cls := x.cls
  severity := x.severity
  lamp := x.lamp
  tone := x.tone
  message := x.message
  state := .activeUnack
  silenced := false
  shelved := none
  occurrences := 1
  raisedAt := t

/-- The carried severity is higher than the record's: an escalation (R98). -/
def Alert.escalatedBy (a : Alert) (x : RaiseArgs) : Bool := decide (a.severity.rank < x.severity.rank)

/-- The record after a re-raise (R97, R98, R99). -/
def Alert.reraised (x : RaiseArgs) (a : Alert) : Alert :=
  let b : Alert := { a with
    occurrences := min 255 (a.occurrences + 1), area := x.area, cls := x.cls, lamp := x.lamp,
    tone := x.tone, message := x.message }
  if a.escalatedBy x then { b with severity := x.severity, state := .activeUnack, silenced := false }
  else match a.state with
    | .clearedUnack _ => { b with state := .activeUnack, silenced := false }
    | _ => b

/-- Raise a condition: append a new record, or re-raise the one present (R95, R97 to R99, R93). Capacity
is the caller's check (R96). -/
def State.raise (src : Source) (code : Byte) (x : RaiseArgs) (s : State) : State :=
  match s.record src code with
  | none =>
    let a := newAlert src code x s.now
    { s with alerts := s.alerts ++ [a] }.noticeKept .raised a
  | some a =>
    (s.changeRecord src code (Alert.reraised x)).noticeKept
      (if a.escalatedBy x then .escalated else .reoccurred) (a.reraised x)

/-! ### System records (R92, R93) -/

/-- The message "PORT n LINK LOST" (R92). -/
def portLostMessage (p : PortId) : List Byte :=
  [80, 79, 82, 84, 32, byteOf (48 + p.val), 32, 76, 73, 78, 75, 32, 76, 79, 83, 84]

/-- The message "PANEL DRIVE FAULT" (R92). -/
def driveFaultMessage : List Byte :=
  [80, 65, 78, 69, 76, 32, 68, 82, 73, 86, 69, 32, 70, 65, 85, 76, 84]

/-- The message "ALERT LIST FULL" (R92). -/
def listFullMessage : List Byte := [65, 76, 69, 82, 84, 32, 76, 73, 83, 84, 32, 70, 85, 76, 76]

/-- A system record's fixed values: area 255, class 255, lamp L15, tone absent (R92). -/
def systemArgs (severity : Severity) (message : List Byte) : RaiseArgs :=
  ⟨255, 255, severity, some 15, none, message⟩

/-- The code of PORT_LOST_n (R92). -/
def portLostCode (p : PortId) : Byte := byteOf p.val

/-- The code of DRIVE_FAULT (R92). -/
def driveFaultCode : Byte := 4

/-- The code of LIST_OVERFLOW (R92). -/
def listOverflowCode : Byte := 5

def State.raisePortLost (p : PortId) (s : State) : State :=
  s.raise .system (portLostCode p) (systemArgs .caution (portLostMessage p))

def State.raiseDriveFault (s : State) : State :=
  s.raise .system driveFaultCode (systemArgs .warning driveFaultMessage)

def State.raiseListOverflow (s : State) : State :=
  s.raise .system listOverflowCode (systemArgs .warning listFullMessage)

/-! ### Clearing, acknowledging, silencing, shelving -/

/-- Clear the condition under a source and code (R100, R93): to ringback, or removal if acknowledged; a
record in ringback, and an absent one, are left. -/
def State.clear (src : Source) (code : Byte) (s : State) : State :=
  match s.record src code with
  | none => s
  | some a => match a.state with
    | .activeUnack =>
      let b := { a with state := .clearedUnack s.now }
      (s.changeRecord src code fun _ => b).noticeKept .cleared b
    | .activeAck by_ _ => (s.removeRecord src code).noticeRemoved .cleared a (some by_)
    | .clearedUnack _ => s

/-- Acknowledge the record under a source and code (R103). -/
def State.acknowledge (by_ : Acker) (src : Source) (code : Byte) (s : State) : State :=
  match s.record src code with
  | none => s
  | some a => match a.state with
    | .activeUnack =>
      let b := { a with state := .activeAck by_ s.now }
      (s.changeRecord src code fun _ => b).noticeKept .acknowledged b
    | .clearedUnack _ => (s.removeRecord src code).noticeRemoved .acknowledged a (some by_)
    | .activeAck _ _ => s

/-- After an event that removed port records, LIST_OVERFLOW is cleared when 28 or fewer remain (R111).
`before` is the port record count before the event. -/
def State.checkOverflow (before : Nat) (s : State) : State :=
  if portCount s.alerts < before ∧ portCount s.alerts ≤ 28 then s.clear .system listOverflowCode else s

/-- Clear every record of a port, in list order, as one event, with R111 applied once (R116). -/
def State.clearPort (p : PortId) (s : State) : State :=
  let codes := (s.alerts.filter fun a => decide (a.source = .port p)).map Alert.code
  (codes.foldl (fun t c => t.clear (.port p) c) s).checkOverflow (portCount s.alerts)

/-- Acknowledge every record eligible now, by KEY, in list order, as one event (R104, R154). -/
def State.acknowledgeEligible (s : State) : State :=
  let keys := (s.alerts.filter Alert.eligible).map fun a => (a.source, a.code)
  (keys.foldl (fun t k => t.acknowledge .key k.1 k.2) s).checkOverflow (portCount s.alerts)

/-- Silence every ACTIVE_UNACK record (R106, R155). -/
def State.silenceAll (s : State) : State :=
  { s with alerts := s.alerts.map fun a => if a.state = .activeUnack then { a with silenced := true } else a }

/-- Silence the record whose finite pattern ended, if it is present and ACTIVE_UNACK (R106, R143). -/
def State.silenceEnded (src : Source) (code : Byte) (s : State) : State :=
  s.changeRecord src code fun a => if a.state = .activeUnack then { a with silenced := true } else a

/-- The expiry of a shelving of `secs` seconds made now, at most 4294967295 (R107). -/
def State.shelfExpiry (s : State) (secs : Nat) : BitVec 32 :=
  BitVec.ofNat 32 (min 4294967295 (s.time.seconds.toNat + secs))

/-- Shelve a record (R107). -/
def State.shelve (src : Source) (code : Byte) (secs : Nat) (s : State) : State :=
  match s.record src code with
  | none => s
  | some a =>
    let b := { a with shelved := some (s.shelfExpiry secs) }
    (s.changeRecord src code fun _ => b).noticeKept .shelved b

/-- End a record's shelving, if it is shelved (R108, R109). -/
def State.unshelve (src : Source) (code : Byte) (s : State) : State :=
  match s.record src code with
  | none => s
  | some a => match a.shelved with
    | none => s
    | some _ =>
      let b := { a with shelved := none }
      (s.changeRecord src code fun _ => b).noticeKept .unshelved b

/-- The record's shelving has reached its expiry (R109). -/
def Alert.expired (now : BitVec 32) (a : Alert) : Bool :=
  match a.shelved with
  | some e => decide (e.toNat ≤ now.toNat)
  | none => false

/-- Unshelve every record whose expiry the seconds count has reached, in list order (R109, R168). -/
def State.unshelveExpired (s : State) : State :=
  let keys := (s.alerts.filter (Alert.expired s.time.seconds)).map fun a => (a.source, a.code)
  keys.foldl (fun t k => t.unshelve k.1 k.2) s

end Sys2Proof.Machine
end

