-- ==== Sys2Proof/Machine/SoundOps.lean ====
section
/-!
DEFINITION. The Sounder: source selection (R138 to R140), patterns (R141), and the output (R134, R135).
-/

namespace Sys2Proof.Machine

/-- A candidate for the sounder (R138). -/
def Alert.candidate (a : Alert) : Bool :=
  decide (a.state = .activeUnack) && !a.silenced && a.shelved.isNone

/-- The sounding alert (R138). -/
def soundingAlert (alerts : List Alert) : Option Alert := (bySeverity (alerts.filter Alert.candidate)).head?

/-- The severity's default tone entry (R88, R138). -/
def Severity.defaultTone : Severity → ToneId
  | .advisory => 1
  | .caution => 2
  | .warning => 3

/-- The entry sounded for a record (R88). -/
def Alert.entry (a : Alert) : ToneId := a.tone.getD a.severity.defaultTone

/-- The source that applies and its entry, none for SILENT (R138). -/
def State.selectSource (s : State) : Option (SoundSource × ToneId) :=
  if s.panelTest then some (.test, 4)
  else match soundingAlert s.alerts with
    | some a => some (.alert a.source a.code, a.entry)
    | none => match s.chimes with
      | t :: _ => some (.chime, t)
      | [] => none

/-- A pattern at its start (R141). -/
def State.startPattern (src : SoundSource) (entry : ToneId) (s : State) : State :=
  { s with pattern := some ⟨src, entry, .on s.tones[entry].onTicks, 0⟩ }

/-- The Sounder chooses its source again (R139, R140). A chime that leaves the queue takes its pattern
with it (`State.dropChime`), so a CHIME source that stays names the same entry of the queue. -/
def State.chooseSource (s : State) : State :=
  match s.selectSource with
  | none => { s with pattern := none }
  | some (src, entry) => match s.pattern with
    | none => s.startPattern src entry
    | some pt =>
      if pt.source = src then
        if pt.entry = entry then s else s.startPattern src entry
      else if pt.source = .chime then { s with chimes := s.chimes.tail }.startPattern src entry
      else s.startPattern src entry

/-- The playing chime leaves the queue with its pattern (R143). -/
def State.dropChime (s : State) : State := { s with chimes := s.chimes.tail, pattern := none }

/-! ### The output (R134, R135) -/

/-- The frequency of a code in Hz (R134). -/
def frequency (c : Byte) : ℚ := 128000 / (c.toNat + 64)

/-- The level of an amplitude 1 to 15 in dB relative to full scale (R135). -/
def levelDb (n : Nat) : Int := ((n : Int) - 15) * 3

/-- What the output carries. -/
inductive SounderOut where
  | silence
  /-- One frequency, by its code, at a level in dB. -/
  | one (code : Byte) (db : Int)
  /-- Two frequencies at once, each at a level in dB. -/
  | two (primary secondary : Byte) (db : Int)
  deriving DecidableEq, Repr

/-- What an entry sounds in its on period of this number, counted from 1 (R135). -/
def ToneEntry.sound (t : ToneEntry) (period : Nat) : SounderOut :=
  if t.amplitude = 0 then .silence
  else match t.secondary, t.mix with
    | none, _ => .one t.primary (levelDb t.amplitude)
    | some c, .together => .two t.primary c (levelDb t.amplitude - 6)
    | some c, .alternate => .one (if period % 2 = 1 then t.primary else c) (levelDb t.amplitude)

/-- The sounder output (R135, R138, R142, R143). -/
def State.sounder (s : State) : SounderOut :=
  match s.pattern with
  | none => .silence
  | some pt => match pt.phase with
    | .on _ => s.tones[pt.entry].sound (pt.completed + 1)
    | _ => .silence

end Sys2Proof.Machine
end

