-- ==== Sys2Proof/Machine/Events.lean ====
section
/-!
DEFINITION. The events that run through several blocks: stale-tile reports and the ends of waits (R12,
R49, R50, R72), the engine arbiter (R61 to R63), the Rail Controller's reactions (R77, R78, R81), list
events (R118, R127), overlay events (R158, R159), window closures (R28, R42), second events (R164); and how
an event is taken whole (R139, R192) and a request is admitted (R181).
-/

namespace Sys2Proof.Machine

/-! ### Waits (R72, R190) -/

/-- The tile is SETTLED. -/
def TileRec.isSettled (r : TileRec) : Bool := decide (r.state = .settled)

/-- A window is settled when every tile its rectangle touches is SETTLED (R71). -/
def State.windowSettled (s : State) (w : Window) : Bool := w.rect.tiles.all fun n => s.tiles[n].isSettled

/-- A wait ends: it becomes absent, the port READY, and its response is queued (R190). -/
def PortUnit.endWait (st : Status) (u : PortUnit) : PortUnit :=
  match u.wait with
  | none => u
  | some w => { u with wait := none }.answer w.tag RequestCode.waitSettled.byte st []

/-- End the waits whose window satisfies `ends`, with a status (R190). -/
def State.endWaits (st : Status) (ends : WindowId → Bool) (s : State) : State :=
  s.mapPorts fun _ u => match u.wait with
    | some w => if ends w.window then u.endWait st else u
    | none => u

/-- At reports of tiles having become SETTLED, the waits on settled windows that touch one of them end
with OK (R50, R72). -/
def State.settledReport (ns : List TileId) (s : State) : State :=
  s.endWaits .ok fun i => match s.windows[i] with
    | some w => w.rect.tiles.any (ns.contains ·) && s.windowSettled w
    | none => false

/-- At an accepted MOVE_WINDOW, the waits on the moved window are judged against its new rectangle (R72). -/
def State.movedReport (i : WindowId) (s : State) : State :=
  s.endWaits .ok fun j => decide (j = i) && match s.windows[j] with
    | some w => s.windowSettled w
    | none => false

/-! ### Stale-tile reports (R12, R49) -/

/-- A stale-tile report acts on a tile record (R49). -/
def TileRec.report (stamp : Stamp) (stale : Bool) (r : TileRec) : TileRec :=
  match r.state, stale with
  | .settled, true => { r with state := .pending stamp }
  | .pending _, false => if r.fullDue then r else { r with state := .settled }
  | _, _ => r

/-- One set of reports: a tile in which a composed value changed is reported with its staleness (R12). -/
def reportSet (before after : View) (stamp : Stamp) (panel : Vector (Vector (Option CellValue) 8) 40)
    (ns : List TileId) (tiles : Vector TileRec 40) : Vector TileRec 40 :=
  ns.foldl (fun ts n =>
    if before.tile n = after.tile n then ts
    else ts.set n (ts[n].report stamp (tileStale after panel n))) tiles

/-- The tiles that became SETTLED between two sets of records (R50). -/
def becameSettled (before after : Vector TileRec 40) : List TileId :=
  tileIds.filter fun n => !before[n].isSettled && after[n].isSettled

/-- The Compositor takes one event: `s` is the state the event left, `before` the inputs of composition
before it, `ns` the tiles of the cells it re-evaluates (R11, R12). The reports are applied as one set,
and the waits they settle end (log 13). -/
def State.compositorEvent (before : View) (ns : List TileId) (s : State) : State :=
  let tiles := reportSet before s.view s.now s.panel ns s.tiles
  { s with tiles := tiles }.settledReport (becameSettled s.tiles tiles)

/-! ### The engine arbiter (R53, R54, R61 to R63) -/

/-- Waiting: PENDING or UNKNOWN (R47). -/
def TileRec.waiting (r : TileRec) : Bool :=
  match r.state with
  | .unknown _ => true
  | .pending _ => true
  | _ => false

/-- Pending since, where present (R46). -/
def TileRec.since (r : TileRec) : Option Stamp :=
  match r.state with
  | .unknown t => some t
  | .pending t => some t
  | _ => none

/-- The number of waiting tiles (R47). -/
def State.waitingTiles (s : State) : Nat := (s.tiles.toList.filter TileRec.waiting).length

def State.anyWaiting (s : State) : Bool := s.tiles.toList.any TileRec.waiting

def State.anyBusy (s : State) : Bool := s.engines.toList.any Option.isSome

/-- The first free engine in number order (R63). -/
def State.freeEngine (s : State) : Option EngineId := engineIds.find? fun e => s.engines[e].isNone

/-- The banner supplies the band's composed values (R62). -/
def State.bannerComposed (s : State) : Bool := s.bannerShowing && !s.panelTest && !s.blank

/-- The class of a waiting tile at a handing (R62). -/
def State.tileClass (s : State) (n : TileId) : Nat :=
  if s.bannerComposed ∧ tileRow n < s.bandHeight then 1
  else match s.tiles[n].state with
    | .unknown _ => 2
    | _ => 3

/-- Tile `a` with its stamp is chosen before tile `b` with its own: lower class, then older stamp (R62,
R63). Ties go to the tile met first, the lower number. -/
def State.ranksBefore (s : State) (a b : TileId × Stamp) : Bool :=
  decide (s.tileClass a.1 < s.tileClass b.1) ||
    (decide (s.tileClass a.1 = s.tileClass b.1) && a.2.before b.2)

/-- The better of the tile chosen so far and tile `n`, if that waits (R62, R63). -/
def State.better (s : State) (best : Option (TileId × Stamp)) (n : TileId) : Option (TileId × Stamp) :=
  match s.tiles[n].since, best with
  | none, _ => best
  | some t, none => some (n, t)
  | some t, some b => if s.ranksBefore (n, t) b then some (n, t) else best

/-- The tile the arbiter chooses (R62, R63). -/
def State.chooseTile (s : State) : Option TileId := (tileIds.foldl s.better none).map Prod.fst

/-- The waveform of a job, chosen from the tile record at its start (R53). -/
def TileRec.waveform (r : TileRec) : Waveform :=
  match r.state with
  | .unknown _ => .fullDrive
  | _ => if r.partialCount = 16 || r.fullDue then .fullDrive else .partialDrive

/-- PARTIAL has 8 frames, FULL 24 (R52). -/
def Waveform.length : Waveform → Nat
  | .partialDrive => 8
  | .fullDrive => 24

/-- A job starts: snapshot, waveform, frames, and the tile DRIVING (R54). -/
def State.startJob (e : EngineId) (n : TileId) (s : State) : State :=
  let w := s.tiles[n].waveform
  { s with
    engines := s.engines.set e (some ⟨n, w, s.view.tile n, w.length⟩)
    tiles := s.tiles.set n { s.tiles[n] with state := .driving } }

/-- The rail is ON (R61). -/
def State.railOn (s : State) : Bool :=
  match s.rail.state with
  | .on _ => true
  | _ => false

/-- One handing: the first free engine to the chosen tile, while the rail is ON (R61, R63). -/
def State.handOne (s : State) : State :=
  if s.railOn then
    match s.freeEngine, s.chooseTile with
    | some e, some n => s.startJob e n
    | _, _ => s
  else s

/-- The engine arbiter hands free engines until none is free or no tile waits; there are four engines (R61). -/
def State.arbiter (s : State) : State := s.handOne.handOne.handOne.handOne

/-! ### The Rail Controller's reactions -/

def State.setRail (r : RailState) (s : State) : State := { s with rail := { s.rail with state := r } }

def State.setAttempts (n : Nat) (s : State) : State := { s with rail := { s.rail with attempts := n } }

/-- The length of the hold timer in tick events (R76). -/
def Rail.holdLength (r : Rail) : Nat := r.holdSetting * 64

/-- While ON, the hold timer starts when no tile waits and no engine is busy, and stops when a tile
waits; a running one goes on (R81). -/
def State.checkHold (s : State) : State :=
  match s.rail.state with
  | .on h =>
    if s.anyWaiting || s.anyBusy then s.setRail (.on none)
    else match h with
      | some _ => s
      | none => s.setRail (.on (some s.rail.holdLength))
  | _ => s

/-- A change `f` of the list, then the banner derived again, once (R127). The source is chosen again at the
end of the event (`State.heardSince`). -/
def State.listChange (f : State → State) (s : State) : State := (f s).compositorEvent s.view bandTiles

/-- Power-good is taken asserted while RISING (R78): count 0, DRIVE_FAULT cleared, then ON, the handings,
and the look at the hold. -/
def State.reachOn (s : State) : State :=
  let t := (s.setAttempts 0).listChange (State.clear .system driveFaultCode)
  (t.setRail (.on none)).arbiter.checkHold

/-- The rail goes to RISING, and on to ON at the same event if power-good is asserted (R77). -/
def State.enterRising (s : State) : State :=
  if s.powerGood then s.reachOn else s.setRail (.rising 4)

/-- The scheduler's conditions after an event: a waiting tile raises the rail from OFF (R77), and while
the rail is ON the arbiter acts and the hold timer follows (R61, R81). -/
def State.driveReact (s : State) : State :=
  match s.rail.state with
  | .off => if s.anyWaiting then s.enterRising else s
  | .on _ => s.arbiter.checkHold
  | _ => s

/-- A composition event and what the drive does at it. -/
def State.composed (before : View) (ns : List TileId) (s : State) : State :=
  (s.compositorEvent before ns).driveReact

/-- A list event and what the drive does at it. A change that leaves the list as it was is no event of
its neighbours (R118). -/
def State.listEvent (f : State → State) (s : State) : State :=
  if (f s).alerts = s.alerts then f s else (s.listChange f).driveReact

/-- A change of panel test active: all cells re-evaluated (R11, R158). `before` is the view before the
change. The source is chosen again at the end of the event (`State.heardSince`). -/
def State.overlayEvent (before : View) (s : State) : State := s.composed before allTiles

/-- A change `f` of one of the two test flags; only a change of panel test active is an event (R7, R156). -/
def State.testChange (f : State → State) (s : State) : State :=
  if (f s).panelTest = s.panelTest then f s else (f s).overlayEvent s.view

/-- The remote test flag takes a value (R156, R157). -/
def State.setRemoteTest (b : Bool) (s : State) : State := s.testChange fun t => { t with remoteTest := b }

/-- The SUPERVISOR role is released by port `p`, if it holds it (R183). -/
def State.releaseRole (p : PortId) (s : State) : State :=
  if s.supervisor = some p then { s with supervisor := none }.setRemoteTest false else s

/-! ### Full due markings (R65, R69) -/

/-- Mark a tile record for a FULL drive; a SETTLED tile begins to wait (R65, R69). -/
def TileRec.markFull (stamp : Stamp) (r : TileRec) : TileRec :=
  { r with fullDue := true, state := if r.state = .settled then .pending stamp else r.state }

/-- Mark the named tiles for which `which` holds, and let the drive react. -/
def State.markTiles (ns : List TileId) (which : TileRec → Bool) (s : State) : State :=
  { s with tiles := ns.foldl (fun ts (n : TileId) =>
      if which ts[n] then ts.set n (ts[n].markFull s.now) else ts) s.tiles }.driveReact

/-! ### Closing windows (R27, R28, R42) -/

/-- The windows of a port (R42). -/
def State.windowsOf (s : State) (p : PortId) : List WindowId :=
  windowIds.filter fun i => match s.windows[i] with
    | some w => decide (w.owner = p)
    | none => false

/-- The tiles of the union of the windows' rectangles (R42). -/
def State.windowTiles (s : State) (is : List WindowId) : List TileId :=
  tileIds.filter fun n => is.any fun i => match s.windows[i] with
    | some w => w.rect.touches n
    | none => false

/-- Close windows as one event: the entries become FREE, the waits on them end with WINDOW_GONE, and the
union of their rectangles is re-evaluated once (R27, R28, R42). Where there are none, nothing happens (R42). -/
def State.closeWindows (is : List WindowId) (s : State) : State :=
  if is = [] then s
  else ({ s with windows := is.foldl (fun ws (i : WindowId) => ws.set i none) s.windows }.endWaits .windowGone
    fun i => is.contains i).composed s.view (s.windowTiles is)

/-! ### Port loss (R187) -/

/-- Steps 1 to 4 of R187 at the Port Unit: buffer emptied, wait abandoned, queues emptied and a frame in
transmission cut short by an abort, LOST; with CLOSE the filters take their reset values (step 5). -/
def PortUnit.lose (u : PortUnit) : PortUnit :=
  { u with
    rx := []
    wait := none
    responses := []
    notices := []
    tx := .free
    lineEnd := if u.tx = .free then u.lineEnd else .abort
    state := .lost
    keepaliveCount := none
    filters := if u.lossAction = .close then filtersReset else u.filters }

/-- The loss of a port (R187, R43, R117): the list takes its part as one event. The drive answers the end of a
remote test, the closures and the list event each in turn (log 24). -/
def State.losePort (p : PortId) (s : State) : State :=
  let close := decide (s.ports[p].lossAction = .close)
  let a := (s.modifyPort p PortUnit.lose).releaseRole p
  let b := if close then a.closeWindows (a.windowsOf p) else a
  b.listEvent fun t => (if close then t.clearPort p else t).raisePortLost p

/-! ### The time (R164, R165, R168) -/

/-- A second event at one Port Unit: its keepalive count and its wait count go up (R186, R190). -/
def PortUnit.countSecond (u : PortUnit) : PortUnit :=
  { u with
    keepaliveCount := u.keepaliveCount.map (· + 1)
    wait := u.wait.map fun w => { w with count := w.count + 1 } }

/-- The second event of this moment is handed on, if that is still to be done (R164): to the Drive
Scheduler's count (R64), the Port Units' counts, and the Alert List's comparison (R109). What a count
brings about is a step of its own (log 2). -/
def State.takeSecond (s : State) : State :=
  if s.time.secondDue then
    { s with
      time := { s.time with secondDue := false }
      refreshCount := if s.refreshPeriod = 0 then 0 else s.refreshCount + 1
      shelvingDue := s.alerts.any (Alert.expired s.time.seconds) }.mapPorts fun _ u => u.countSecond
  else s

/-- A blink event: the phase takes a value, and the cells that blink are re-evaluated (R8, R11, R165). -/
def State.setPhase (b : Bool) (s : State) : State :=
  { s with time := { s.time with phase := b } }.composed s.view allTiles

/-! ### An event as a whole (R139, R192) -/

/-- The Sounder chooses its source again, once, at an event that changed the list, panel test active or the
chime queue, after all its changes (R139). `before` is the state the event found. -/
def State.heardSince (before s : State) : State :=
  if s.alerts = before.alerts ∧ s.panelTest = before.panelTest ∧ s.chimes = before.chimes then s
  else s.chooseSource

/-- An event taken whole: its changes `f`, the Sounder's choice after them (R139), then the transmissions
that begin (R192). -/
def State.whole (f : State → State) (s : State) : State := (s.heardSince (f s)).finish

/-- The loss of a port, if a second event already taken has made it due, as an event of its own (R186,
R187; log 8). -/
def State.lossFirst (p : PortId) (s : State) : State :=
  if s.ports[p].lossDue then s.whole (State.losePort p) else s

/-- A second event that is due, then the loss of port `p` that it may have brought, each as an event of its
own (R164, R187; log 8). -/
def State.secondFirst (p : PortId) (s : State) : State :=
  (if s.time.secondDue then s.whole State.takeSecond else s).lossFirst p

/-! ### Requests (R180, R181) -/

/-- Admission in the order of R181 (check 2, the request code, is made where a body is read), then the
block's own work `run`, the Sounder's choice after it (R139), and the response. -/
def admission (p : PortId) (tag : Byte) (rc : RequestCode) (lengthOk inRange supervisorOnly : Bool)
    (run : State → State × Reply) (s : State) : State :=
  if rc ≠ .attach ∧ s.ports[p].state ≠ .attached then s.refuse p tag rc.byte .notAttached
  else if !lengthOk then s.refuse p tag rc.byte .badLength
  else if !inRange then s.refuse p tag rc.byte .badValue
  else if supervisorOnly && !s.isSupervisor p then s.refuse p tag rc.byte .notPermitted
  else (s.heardSince (run s).1).reply p tag rc (run s).2

/-- Work that must not overtake events of the last tick which are still due: they are taken `first`, each as
an event of its own. Where one of them is the loss of the request's own port, the request is gone with it,
without a response (R187; log 8). -/
def afterDue (p : PortId) (first : State → State) (run : State → State × Reply) (s : State) : State × Reply :=
  if (first s).ports[p].state = s.ports[p].state then run (first s) else (first s, none)

/-- A request commanded directly is the taking of it by its port (R180; log 9): where the port cannot
take one, the step does not occur (log 3). -/
def takeDirect (p : PortId) (request : State → State) (s : State) : Out :=
  .next (if s.ports[p].canTake then (request s).finish else s)

end Sys2Proof.Machine
end

