-- ==== Sys2Proof/Machine/Alerts.lean ====
section
/-!
DEFINITION. The Alert List's rows and SET_BANNER: RAISE_ALERT, CLEAR_ALERT, ACK_ALERT, SHELVE_ALERT,
UNSHELVE_ALERT, SHELVING_EXPIRY, LIST_ALERTS (chapter The Alert List), SET_BANNER (R128).
-/

namespace Sys2Proof.Machine

/-! ### RAISE_ALERT (R95 to R99) -/

/-- The operands of a raise, read (R95, R203). -/
def raiseArgs (area cls severity lamp tone : Byte) (message : List Byte) : RaiseArgs :=
  ⟨area, cls, severityOf severity, lampOf lamp, toneOrAbsent tone, message⟩

/-- The position and state that a response to an accepted raise or re-raise carries, read in the state that
the raise itself left (R95, R99, R207; log 23). -/
def State.raiseResult (src : Source) (code : Byte) (s : State) : List Byte :=
  match s.record src code with
  | some a => [byteOf (s.position src code), a.state.stage.byte]
  | none => []

/-- RAISE_ALERT's own work: LIST_FULL with its raise of LIST_OVERFLOW (R96), or the raise (R95, R97). The
position answered is the one the raise or re-raise left: that of R99 "after the raise", before a rise that
the same event brings removes DRIVE_FAULT (R77, R86). The spec does not say which of the two; the choice is
the model's (log 23). -/
def runRaiseAlert (p : PortId) (code : Byte) (x : RaiseArgs) (s : State) : State × Reply :=
  if s.record (.port p) code = none ∧ 32 ≤ portCount s.alerts then
    (s.listEvent State.raiseListOverflow, some (.listFull, []))
  else
    (s.listEvent (State.raise (.port p) code x),
      some (.ok, (s.raise (.port p) code x).raiseResult (.port p) code))

def reqRaiseAlert (p : PortId) (tag code area cls severity lamp tone : Byte) (message : List Byte) :
    State → State :=
  admission p tag .raiseAlert (messageLengthOk message) (raiseAlertOk severity lamp tone) false
    (runRaiseAlert p code (raiseArgs area cls severity lamp tone message))

/-- RAISE_ALERT (R95 to R99). -/
def execRaiseAlert (p : PortId) (tag code area cls severity lamp tone : Byte) (message : List Byte)
    (s : State) : Out :=
  takeDirect p (reqRaiseAlert p tag code area cls severity lamp tone message) s

/-! ### CLEAR_ALERT and ACK_ALERT (R100, R102, R103) -/

/-- The outcome byte: the record's state after the request, or 3 for removed (R207), read in the state that
the clear or the acknowledgement itself left (log 23). -/
def State.outcome (src : Source) (code : Byte) (s : State) : Byte :=
  match s.record src code with
  | some a => a.state.stage.byte
  | none => 3

def runClearAlert (p : PortId) (code : Byte) (s : State) : State × Reply :=
  if s.record (.port p) code = none then (s, some (.noAlert, []))
  else
    let f := fun u : State => (u.clear (.port p) code).checkOverflow (portCount u.alerts)
    (s.listEvent f, some (.ok, [(f s).outcome (.port p) code]))

def reqClearAlert (p : PortId) (tag code : Byte) : State → State :=
  admission p tag .clearAlert true true false (runClearAlert p code)

/-- CLEAR_ALERT (R100, R101, R111). -/
def execClearAlert (p : PortId) (tag code : Byte) (s : State) : Out :=
  takeDirect p (reqClearAlert p tag code) s

/-- ACK_ALERT's own checks and work, in the order of R102. The outcome answered is that of the
acknowledgement, before a rise that the same event brings removes DRIVE_FAULT (R77, R86): the choice is the
model's (log 23). -/
def runAckAlert (p : PortId) (source code : Byte) (s : State) : State × Reply :=
  let src := sourceOf source
  if src ≠ .port p ∧ s.isSupervisor p = false then (s, some (.notPermitted, []))
  else if s.record src code = none then (s, some (.noAlert, []))
  else
    let f := fun u : State => (u.acknowledge (.port p) src code).checkOverflow (portCount u.alerts)
    (s.listEvent f, some (.ok, [(f s).outcome src code]))

def reqAckAlert (p : PortId) (tag source code : Byte) : State → State :=
  admission p tag .ackAlert true (sourceCodeOk source code) false (runAckAlert p source code)

/-- ACK_ALERT (R102, R103, R111). -/
def execAckAlert (p : PortId) (tag source code : Byte) (s : State) : Out :=
  takeDirect p (reqAckAlert p tag source code) s

/-! ### Shelving (R107 to R109) -/

def runShelveAlert (source code : Byte) (seconds : BitVec 16) (s : State) : State × Reply :=
  let src := sourceOf source
  if s.record src code = none then (s, some (.noAlert, []))
  else (s.listEvent (State.shelve src code seconds.toNat), some (.ok, []))

def reqShelveAlert (p : PortId) (tag source code : Byte) (seconds : BitVec 16) : State → State :=
  admission p tag .shelveAlert true (shelveAlertOk source code seconds) true (runShelveAlert source code seconds)

/-- SHELVE_ALERT (R107). -/
def execShelveAlert (p : PortId) (tag source code : Byte) (seconds : BitVec 16) (s : State) : Out :=
  takeDirect p (reqShelveAlert p tag source code seconds) s

def runUnshelveAlert (source code : Byte) (s : State) : State × Reply :=
  let src := sourceOf source
  if s.record src code = none then (s, some (.noAlert, []))
  else (s.listEvent (State.unshelve src code), some (.ok, []))

def reqUnshelveAlert (p : PortId) (tag source code : Byte) : State → State :=
  admission p tag .unshelveAlert true (sourceCodeOk source code) true (runUnshelveAlert source code)

/-- UNSHELVE_ALERT (R108). -/
def execUnshelveAlert (p : PortId) (tag source code : Byte) (s : State) : Out :=
  takeDirect p (reqUnshelveAlert p tag source code) s

/-- The shelvings that the seconds count has reached expire, if a second event has made them due (R109). A
shelving begun at seconds 4294967295, between that second event and this comparison, has its saturated expiry
compared here and ends: R110 names its SHELVED alone, and the choice is the model's (log 8). -/
def State.expireShelving (s : State) : State :=
  if s.shelvingDue then { s with shelvingDue := false }.listEvent State.unshelveExpired else s

/-- SHELVING_EXPIRY (R109). -/
def execShelvingExpiry (s : State) : Out := .next (s.whole State.expireShelving)

/-! ### LIST_ALERTS (R112, R208) -/

/-- The records a listing returns: the one at the start, and the next if both images fit the body. -/
def listedRecords (alerts : List Alert) (start : Nat) : List Alert :=
  match alerts.drop start with
  | a :: b :: _ => if 7 + a.image.length + b.image.length ≤ 112 then [a, b] else [a]
  | l => l

/-- The results of a listing (R208). -/
def listing (alerts : List Alert) (start : Nat) : List Byte :=
  let l := listedRecords alerts start
  [byteOf alerts.length, byteOf start, byteOf (start + l.length)] ++ (l.map Alert.image).flatten

def runListAlerts (start : Byte) (s : State) : State × Reply :=
  (s, some (.ok, listing s.alerts start.toNat))

def reqListAlerts (p : PortId) (tag start : Byte) : State → State :=
  admission p tag .listAlerts true (upTo 37 start) false (runListAlerts start)

/-- LIST_ALERTS (R112). -/
def execListAlerts (p : PortId) (tag start : Byte) (s : State) : Out :=
  takeDirect p (reqListAlerts p tag start) s

/-! ### SET_BANNER (R128) -/

def runSetBanner (height : Byte) (s : State) : State × Reply :=
  (if s.bandHeight = height.toNat then s
    else { s with bandHeight := height.toNat }.composed s.view bandTiles, some (.ok, []))

def reqSetBanner (p : PortId) (tag height : Byte) : State → State :=
  admission p tag .setBanner true (within 1 2 height) true (runSetBanner height)

/-- SET_BANNER (R128). -/
def execSetBanner (p : PortId) (tag height : Byte) (s : State) : Out :=
  takeDirect p (reqSetBanner p tag height) s

end Sys2Proof.Machine
end

