-- ==== Sys2Proof/Machine/Drive.lean ====
section
/-!
DEFINITION. The Drive Scheduler's and the engines' rows: JOB_START, JOB_COMPLETION, FULL_REFRESH_EXPIRY,
FULL_REFRESH, SET_REFRESH_PERIOD (chapter Drive Engines and the Update Schedule).
-/

namespace Sys2Proof.Machine

/-! ### JOB_START (R54, R61 to R63, R81) -/

/-- JOB_START (R54): one handing of the arbiter, where R61's conditions hold. -/
def execJobStart (s : State) : Out := .next s.handOne.checkHold.finish

/-! ### JOB_COMPLETION (R56, R57) -/

/-- Steps 2 of R56: the counts of the tile record at the completion of a job. -/
def TileRec.counted (w : Waveform) (r : TileRec) : TileRec :=
  match w with
  | .partialDrive => { r with partialCount := r.partialCount + 1 }
  | .fullDrive => { r with partialCount := 0, fullDue := false }

/-- The state a tile takes at the completion of its job (R57). -/
def TileRec.completed (stamp : Stamp) (stale : Bool) (r : TileRec) : TileRec :=
  { r with state := if stale || r.fullDue then .pending stamp else .settled }

/-- The job of an engine completes (R56): panel values, counts, the tile's new state, the engine free;
a tile that is now SETTLED is reported, and the arbiter acts. -/
def State.finishJob (e : EngineId) (j : Job) (s : State) : State :=
  let panel := s.panel.set j.tile (known j.snapshot)
  let r := (s.tiles[j.tile].counted j.waveform).completed s.now (tileStale s.view panel j.tile)
  let t := { s with engines := s.engines.set e none, panel := panel, tiles := s.tiles.set j.tile r }
  (if r.isSettled then t.settledReport [j.tile] else t).driveReact

/-- The completion of an engine's job, if its last frame has passed (R56). -/
def State.completeJob (e : EngineId) (s : State) : State :=
  match s.engines[e] with
  | some j => if j.frames = 0 then s.finishJob e j else s
  | none => s

/-- JOB_COMPLETION (R56). -/
def execJobCompletion (e : EngineId) (s : State) : Out := .next (s.whole (State.completeJob e))

/-! ### The full refresh (R64 to R69) -/

/-- The count of second events has reached the period (R64). -/
def State.refreshDue (s : State) : Bool := decide (s.refreshPeriod ≠ 0 ∧ s.refreshPeriod * 60 ≤ s.refreshCount)

/-- The full-refresh period expires (R64, R65). -/
def State.expireRefresh (s : State) : State :=
  if s.refreshDue then
    { s with refreshCount := 0 }.markTiles allTiles fun r => decide (0 < r.partialCount)
  else s

/-- FULL_REFRESH_EXPIRY (R65). -/
def execFullRefreshExpiry (s : State) : Out := .next (s.whole State.expireRefresh)

def runFullRefresh (selector window : Byte) (s : State) : State × Reply :=
  if yes selector then
    match s.windows[windowOf window] with
    | none => (s, some (.noWindow, []))
    | some w => (s.markTiles w.rect.tiles fun _ => true, some (.ok, []))
  else (s.markTiles allTiles fun _ => true, some (.ok, []))

def reqFullRefresh (p : PortId) (tag selector window : Byte) : State → State :=
  admission p tag .fullRefresh true (fullRefreshOk selector window) true (runFullRefresh selector window)

/-- FULL_REFRESH (R68, R69). -/
def execFullRefresh (p : PortId) (tag selector window : Byte) (s : State) : Out :=
  takeDirect p (reqFullRefresh p tag selector window) s

/-- An expiry that a second event has already brought is taken, as an event of its own (R64, R192; log 8). -/
def State.expiryFirst (s : State) : State := if s.refreshDue then s.whole State.expireRefresh else s

/-- SET_REFRESH_PERIOD's work (R66), after a second event of a tick already taken and the expiry it may
have brought (R167; log 8). -/
def runSetRefreshPeriod (p : PortId) (minutes : Byte) (s : State) : State × Reply :=
  afterDue p (fun t => (t.secondFirst p).expiryFirst) (fun t =>
    ({ t with refreshPeriod := minutes.toNat, refreshCount := 0 }, some (.ok, []))) s

def reqSetRefreshPeriod (p : PortId) (tag minutes : Byte) : State → State :=
  admission p tag .setRefreshPeriod true (upTo 240 minutes) true (runSetRefreshPeriod p minutes)

/-- SET_REFRESH_PERIOD (R66). -/
def execSetRefreshPeriod (p : PortId) (tag minutes : Byte) (s : State) : Out :=
  takeDirect p (reqSetRefreshPeriod p tag minutes) s

end Sys2Proof.Machine
end

