-- ==== Sys2Proof/Machine/Panel.lean ====
section
/-!
DEFINITION. The Key Scanner's rows and the overlay requests: ACK_PRESS, ACK_HOLD, ACK_RELEASE,
SILENCE_PRESS, SILENCE_RELEASE, TEST_PRESS, TEST_RELEASE, PANEL_TEST, BLANK (chapter Operator Keys,
Panel Test and Blank).
-/

namespace Sys2Proof.Machine

/-! ### Debounce (R151) -/

/-- A key input is sampled at a tick event (R151); at a count of 4 the change is due to be taken (log 2). -/
def KeyRecord.sample (level : Bool) (k : KeyRecord) : KeyRecord :=
  { k with pressed := level, debounce := if level = k.held then 0 else k.debounce + 1 }

/-- A press is due: sampled four times in a row while RELEASED (R151). -/
def KeyRecord.pressDue (k : KeyRecord) : Bool := !k.held && decide (4 ≤ k.debounce)

/-- A release is due: sampled four times in a row while HELD (R151). -/
def KeyRecord.releaseDue (k : KeyRecord) : Bool := k.held && decide (4 ≤ k.debounce)

/-- The change is taken: the other state, and debounce count 0 (R151). -/
def KeyRecord.take (k : KeyRecord) : KeyRecord := { k with held := !k.held, debounce := 0 }

/-! ### ACK (R152 to R154) -/

/-- The ACK record's change is taken and hold ticks become 0 (R152). -/
def State.takeAck (s : State) : State :=
  { s with keys := { s.keys with ack := s.keys.ack.take, holdTicks := 0, holdDue := false } }

/-- The first selected record, if the banner is showing, is acknowledged by KEY (R153, R104, R111). -/
def State.acknowledgeFirst (s : State) : State :=
  match s.firstSelected with
  | none => s
  | some a => (s.acknowledge .key a.source a.code).checkOverflow (portCount s.alerts)

def State.pressAck (s : State) : State :=
  if s.keys.ack.pressDue then s.takeAck.listEvent State.acknowledgeFirst else s

/-- ACK_PRESS (R153). -/
def execAckPress (s : State) : Out := .next (s.whole State.pressAck)

def State.holdAck (s : State) : State :=
  if s.keys.holdDue then
    { s with keys := { s.keys with holdDue := false } }.listEvent State.acknowledgeEligible
  else s

/-- ACK_HOLD (R154). -/
def execAckHold (s : State) : Out := .next (s.whole State.holdAck)

/-- A release of ACK: hold ticks become 0, and no acknowledgement (R152). -/
def State.releaseAck (s : State) : State := if s.keys.ack.releaseDue then s.takeAck else s

/-- ACK_RELEASE (R152). -/
def execAckRelease (s : State) : Out := .next (s.whole State.releaseAck)

/-! ### SILENCE (R148, R155) -/

def State.takeSilence (s : State) : State := { s with keys := { s.keys with silence := s.keys.silence.take } }

/-- A press of SILENCE: the chime queue emptied and every ACTIVE_UNACK record silenced, as one event; the
source is chosen once, after both (R148, R155). -/
def State.pressSilence (s : State) : State :=
  if s.keys.silence.pressDue then
    ({ s.takeSilence with chimes := [] }.listChange State.silenceAll).driveReact.chooseSource
  else s

/-- SILENCE_PRESS (R155). -/
def execSilencePress (s : State) : Out := .next (s.whole State.pressSilence)

/-- A release of SILENCE has no effect beyond its record (R152). -/
def State.releaseSilence (s : State) : State := if s.keys.silence.releaseDue then s.takeSilence else s

/-- SILENCE_RELEASE (R152). -/
def execSilenceRelease (s : State) : Out := .next (s.whole State.releaseSilence)

/-! ### TEST (R156, R158) -/

/-- The TEST record's change is taken; the key test flag follows its state (R156). -/
def State.takeTest (s : State) : State :=
  s.testChange fun t => { t with keys := { t.keys with test := t.keys.test.take } }

def State.pressTest (s : State) : State := if s.keys.test.pressDue then s.takeTest else s

/-- TEST_PRESS (R156). -/
def execTestPress (s : State) : Out := .next (s.whole State.pressTest)

def State.releaseTest (s : State) : State := if s.keys.test.releaseDue then s.takeTest else s

/-- TEST_RELEASE (R156). -/
def execTestRelease (s : State) : Out := .next (s.whole State.releaseTest)

/-! ### PANEL_TEST (R157) and BLANK (R159) -/

def runPanelTest (setting : Byte) (s : State) : State × Reply :=
  (s.setRemoteTest (yes setting), some (.ok, []))

def reqPanelTest (p : PortId) (tag setting : Byte) : State → State :=
  admission p tag .panelTest true (upTo 1 setting) true (runPanelTest setting)

/-- PANEL_TEST (R157). -/
def execPanelTest (p : PortId) (tag setting : Byte) (s : State) : Out :=
  takeDirect p (reqPanelTest p tag setting) s

/-- The blank flag takes a value; a change re-evaluates all cells and leaves the sounder (R159). -/
def State.setBlank (b : Bool) (s : State) : State :=
  if s.blank = b then s else { s with blank := b }.composed s.view allTiles

def runBlank (setting : Byte) (s : State) : State × Reply := (s.setBlank (yes setting), some (.ok, []))

def reqBlank (p : PortId) (tag setting : Byte) : State → State :=
  admission p tag .blank true (upTo 1 setting) true (runBlank setting)

/-- BLANK (R159). -/
def execBlank (p : PortId) (tag setting : Byte) (s : State) : Out :=
  takeDirect p (reqBlank p tag setting) s

end Sys2Proof.Machine
end

