-- ==== Sys2Proof/Machine/Ports.lean ====
section
/-!
DEFINITION. The requests and events of the Port Units (chapter Master Ports): ATTACH, DETACH, STATUS,
RESET_PORT, SET_FILTER, SET_NOTICES, WAIT_SETTLED, WAIT_TIMEOUT, PORT_LOSS.
For each request, `run…` is the block's own work, `req…` the request with its admission, and `exec…`
the row's meaning.
-/

namespace Sys2Proof.Machine

/-! ### ATTACH (R182, R183, R93) -/

/-- The Port Unit's part of an accepted ATTACH (R182). -/
def PortUnit.attached (keepalive : Nat) (lossAction : LossAction) (u : PortUnit) : PortUnit :=
  let v := { u with
    state := .attached, keepalive := keepalive, lossAction := lossAction,
    keepaliveCount := if keepalive = 0 then none else some 0 }
  if u.state = .detached then v.resetNotices else v

/-- The role an accepted ATTACH sets (R183). -/
def State.takeRole (p : PortId) (supervisor : Bool) (s : State) : State :=
  if supervisor then { s with supervisor := some p } else s.releaseRole p

/-- An accepted ATTACH (R182, R183, R93). -/
def State.attach (p : PortId) (role keepalive lossAction : Byte) (s : State) : State × Reply :=
  let before := s.ports[p].state
  let t := (s.modifyPort p (·.attached keepalive.toNat (if yes lossAction then .close else .keep))).takeRole
    p (yes role)
  (if before = .lost then t.listEvent (State.clear .system (portLostCode p)) else t,
    some (.ok, [before.byte]))

/-- ATTACH's own work. A count it starts does not count the second event of a tick already taken (R167). -/
def runAttach (p : PortId) (role keepalive lossAction : Byte) (s : State) : State × Reply :=
  if yes role ∧ s.supervisor ≠ none ∧ s.supervisor ≠ some p then (s, some (.roleTaken, []))
  else afterDue p (State.secondFirst p) (State.attach p role keepalive lossAction) s

def reqAttach (p : PortId) (tag role keepalive lossAction : Byte) : State → State :=
  admission p tag .attach true (attachOk role keepalive lossAction) false (runAttach p role keepalive lossAction)

/-- ATTACH (R182). -/
def execAttach (p : PortId) (tag role keepalive lossAction : Byte) (s : State) : Out :=
  takeDirect p (reqAttach p tag role keepalive lossAction) s

/-! ### DETACH (R184) -/

/-- Step 2 of R184 at the Port Unit. -/
def PortUnit.detached (u : PortUnit) : PortUnit := { u with state := .detached, keepaliveCount := none }

/-- DETACH's own work, in the order of R184. The drive answers the end of a remote test, the closures and the
list event each in turn (log 24). -/
def runDetach (p : PortId) (s : State) : State × Reply :=
  let a := (s.modifyPort p PortUnit.detached).releaseRole p
  let b := a.modifyPort p fun u => u.emptyNotices.resetNotices
  let c := b.closeWindows (b.windowsOf p)
  (c.listEvent (State.clearPort p), some (.ok, []))

def reqDetach (p : PortId) (tag : Byte) : State → State := admission p tag .detach true true false (runDetach p)

/-- DETACH (R184). -/
def execDetach (p : PortId) (tag : Byte) (s : State) : Out := takeDirect p (reqDetach p tag) s

/-! ### STATUS (R194) -/

/-- The rail state's code in the report (R207). -/
def RailState.byte : RailState → Byte
  | .off => 0
  | .rising _ => 1
  | .on _ => 2
  | .falling _ => 3
  | .fault _ => 4

/-- The report's bytes 4 to 21 (R194, R207). -/
def State.report (s : State) (p : PortId) : List Byte :=
  let u := s.ports[p]
  [u.state.byte, boolByte (s.isSupervisor p), boolByte (!u.ready), u.flags.byte, optByte s.supervisor]
  ++ bytesOf16 s.freeCells
  ++ [byteOf (s.alerts.filter fun a => decide (a.source = .port p)).length, byteOf (portCount s.alerts),
      byteOf s.alerts.length, s.rail.state.byte, byteOf s.rail.attempts]
  ++ s.now.bytes ++ [byteOf s.waitingTiles]

/-- Queue a STATUS response (R179). -/
def PortUnit.answerStatus (tag : Byte) (st : Status) (results : List Byte) (u : PortUnit) : PortUnit :=
  { u with responses := u.responses ++ [⟨false, tag, RequestCode.status.byte, st, results⟩] }

/-- A STATUS request is answered at its arrival, or discarded with OVERRUN while three STATUS responses
are queued (R179, R194). `extra` is what the body carries beyond the code. -/
def State.statusArrives (p : PortId) (tag : Byte) (extra : List Byte) (s : State) : State :=
  if 3 ≤ s.ports[p].statusResponses then s.modifyPort p PortUnit.setOverrun
  else if extra.isEmpty then
    s.modifyPort p fun u => { u.answerStatus tag .ok (s.report p) with flags := flagsClear }
  else s.modifyPort p (·.answerStatus tag .badLength [])

/-- STATUS (R194). -/
def execStatus (p : PortId) (tag : Byte) (extra : List Byte) (s : State) : Out :=
  .next (s.statusArrives p tag extra).finish

/-! ### RESET_PORT (R185) -/

/-- RESET_PORT's own work, in the order of R185. The drive answers the closures and the list event each in turn
(log 24). -/
def runResetPort (p : PortId) (s : State) : State × Reply :=
  let b := s.modifyPort p fun u => u.emptyNotices.resetNotices
  let c := b.closeWindows (b.windowsOf p)
  (c.listEvent (State.clearPort p), some (.ok, []))

def reqResetPort (p : PortId) (tag : Byte) : State → State :=
  admission p tag .resetPort true true false (runResetPort p)

/-- RESET_PORT (R185). -/
def execResetPort (p : PortId) (tag : Byte) (s : State) : Out := takeDirect p (reqResetPort p tag) s

/-! ### SET_FILTER (R197) -/

/-- The number of a filter operand (R206: 0 to 3). -/
def filterOf (b : Byte) : Fin 4 := ⟨b.toNat % 4, Nat.mod_lt _ (by decide)⟩

def runSetFilter (p : PortId) (filter enabled mode areaValue areaMask classValue classMask : Byte)
    (s : State) : State × Reply :=
  (s.modifyPort p fun u => { u with
      filters := u.filters.set (filterOf filter)
        ⟨yes enabled, filterModeOf mode, areaValue, areaMask, classValue, classMask⟩ },
    some (.ok, []))

def reqSetFilter (p : PortId) (tag filter enabled mode areaValue areaMask classValue classMask : Byte) :
    State → State :=
  admission p tag .setFilter true (setFilterOk filter enabled mode) false
    (runSetFilter p filter enabled mode areaValue areaMask classValue classMask)

/-- SET_FILTER (R197). -/
def execSetFilter (p : PortId) (tag filter enabled mode areaValue areaMask classValue classMask : Byte)
    (s : State) : Out :=
  takeDirect p (reqSetFilter p tag filter enabled mode areaValue areaMask classValue classMask) s

/-! ### SET_NOTICES (R201) -/

/-- Notices set ON or OFF; OFF empties the queue and marks what is lost (R201, R193). -/
def PortUnit.setNotices (on : Bool) (u : PortUnit) : PortUnit :=
  if on then { u with noticesEnabled := true }
  else
    let v := { u.emptyNotices with noticesEnabled := false }
    if v.notices.length < u.notices.length then v.setChangesPending else v

def runSetNotices (p : PortId) (setting : Byte) (s : State) : State × Reply :=
  (s.modifyPort p (·.setNotices (yes setting)), some (.ok, []))

def reqSetNotices (p : PortId) (tag setting : Byte) : State → State :=
  admission p tag .setNotices true (upTo 1 setting) false (runSetNotices p setting)

/-- SET_NOTICES (R201). -/
def execSetNotices (p : PortId) (tag setting : Byte) (s : State) : Out :=
  takeDirect p (reqSetNotices p tag setting) s

/-! ### WAIT_SETTLED and its end (R189, R190) -/

/-- WAIT_SETTLED's own work. The count it starts does not count the second event of a tick already
taken (R167). -/
def runWaitSettled (p : PortId) (tag window timeout : Byte) (s : State) : State × Reply :=
  match s.windows[windowOf window] with
  | none => (s, some (.noWindow, []))
  | some w =>
    if s.windowSettled w then (s, some (.ok, []))
    else afterDue p (State.secondFirst p) (fun t =>
      (t.modifyPort p fun u => { u with wait := some ⟨windowOf window, timeout.toNat, 0, tag⟩ }, none)) s

def reqWaitSettled (p : PortId) (tag window timeout : Byte) : State → State :=
  admission p tag .waitSettled true (waitSettledOk window timeout) false (runWaitSettled p tag window timeout)

/-- WAIT_SETTLED (R189). -/
def execWaitSettled (p : PortId) (tag window timeout : Byte) (s : State) : Out :=
  takeDirect p (reqWaitSettled p tag window timeout) s

/-- The end of a wait whose count has reached its timeout (R190). -/
def State.timeOutWait (p : PortId) (s : State) : State :=
  if s.ports[p].timeoutDue then s.modifyPort p (·.endWait .timeout) else s

/-- WAIT_TIMEOUT (R190). -/
def execWaitTimeout (p : PortId) (s : State) : Out := .next (s.whole (State.timeOutWait p))

/-! ### PORT_LOSS (R187) -/

/-- The loss of a port whose keepalive count has reached its limit (R186, R187). -/
def State.loseIfDue (p : PortId) (s : State) : State := if s.ports[p].lossDue then s.losePort p else s

/-- PORT_LOSS (R187). -/
def execPortLoss (p : PortId) (s : State) : Out := .next (s.whole (State.loseIfDue p))

end Sys2Proof.Machine
end

