-- ==== Sys2Proof/Machine/RailRows.lean ====
section
/-!
DEFINITION. The Rail Controller's rows: POWER_GOOD_ASSERTED, POWER_GOOD_LOST, the four timer expiries,
SET_HOLD, CLEAR_DRIVE_FAULT (chapter The Drive Rail).
-/

namespace Sys2Proof.Machine

/-- The drive-supply enable output (R75). -/
def State.enable (s : State) : Bool :=
  match s.rail.state with
  | .rising _ => true
  | .on _ => true
  | _ => false

/-! ### Power-good (R75, R78, R83) -/

/-- Power-good becomes asserted (R75, R78). -/
def State.assertPowerGood (s : State) : State :=
  let t := { s with powerGood := true }
  match s.rail.state with
  | .rising _ => t.reachOn
  | _ => t

/-- POWER_GOOD_ASSERTED (R78; ignored in other rail states but for its level, R75). -/
def execPowerGoodAsserted (s : State) : Out := .next (s.whole State.assertPowerGood)

/-- The job of one engine is abandoned (R59). -/
def State.abandonJob (e : EngineId) (s : State) : State :=
  match s.engines[e] with
  | none => s
  | some j => { s with
      engines := s.engines.set e none
      panel := s.panel.set j.tile unknownCells
      tiles := s.tiles.set j.tile { s.tiles[j.tile] with state := .unknown s.now } }

/-- Every busy engine's job is abandoned (R59). -/
def State.abandonJobs (s : State) : State := engineIds.foldl (fun t e => t.abandonJob e) s

/-- Power-good ceases to be asserted; while ON it is a loss (R75, R83). -/
def State.losePowerGood (s : State) : State :=
  let t := { s with powerGood := false }
  if s.railOn then
    ((t.abandonJobs.setAttempts 1).setRail (.fault (some 320))).listEvent State.raiseDriveFault
  else t

/-- POWER_GOOD_LOST (R83; ignored in other rail states but for its level, R75). -/
def execPowerGoodLost (s : State) : Out := .next (s.whole State.losePowerGood)

/-! ### Timer expiries (R79, R80, R82) -/

/-- The rise timer expires in RISING: the attempt has failed (R79). -/
def State.expireRise (s : State) : State :=
  match s.rail.state with
  | .rising 0 =>
    let n := s.rail.attempts + 1
    let t := (s.setAttempts n).setRail (.fault (if n < 3 then some 320 else none))
    if s.rail.attempts = 0 then t.listEvent State.raiseDriveFault else t
  | _ => s

/-- RISE_TIMER_EXPIRY (R79). -/
def execRiseTimerExpiry (s : State) : Out := .next (s.whole State.expireRise)

/-- The hold timer expires in ON (R82). -/
def State.expireHold (s : State) : State :=
  match s.rail.state with
  | .on (some 0) => s.setRail (.falling 2)
  | _ => s

/-- HOLD_TIMER_EXPIRY (R82). -/
def execHoldTimerExpiry (s : State) : Out := .next (s.whole State.expireHold)

/-- The fall timer expires: OFF, and straight on to RISING if a tile waits (R82, R77). -/
def State.expireFall (s : State) : State :=
  match s.rail.state with
  | .falling 0 => (s.setRail .off).driveReact
  | _ => s

/-- FALL_TIMER_EXPIRY (R82). -/
def execFallTimerExpiry (s : State) : Out := .next (s.whole State.expireFall)

/-- The retry timer expires in FAULT: the rail rises, whether or not a tile waits (R80). -/
def State.expireRetry (s : State) : State :=
  match s.rail.state with
  | .fault (some 0) => s.enterRising
  | _ => s

/-- RETRY_TIMER_EXPIRY (R80). -/
def execRetryTimerExpiry (s : State) : Out := .next (s.whole State.expireRetry)

/-! ### SET_HOLD (R84) and CLEAR_DRIVE_FAULT (R85) -/

def runSetHold (seconds : Byte) (s : State) : State × Reply :=
  ({ s with rail := { s.rail with holdSetting := seconds.toNat } }, some (.ok, []))

def reqSetHold (p : PortId) (tag seconds : Byte) : State → State :=
  admission p tag .setHold true (within 1 60 seconds) true (runSetHold seconds)

/-- SET_HOLD (R84). -/
def execSetHold (p : PortId) (tag seconds : Byte) (s : State) : Out :=
  takeDirect p (reqSetHold p tag seconds) s

/-- The rail is FAULT with the attempt count at 3 (R85). -/
def Rail.locked (r : Rail) : Bool :=
  match r.state with
  | .fault _ => decide (r.attempts = 3)
  | _ => false

def runClearDriveFault (s : State) : State × Reply :=
  (if s.rail.locked then ((s.setAttempts 0).setRail .off).driveReact else s, some (.ok, []))

def reqClearDriveFault (p : PortId) (tag : Byte) : State → State :=
  admission p tag .clearDriveFault true true true runClearDriveFault

/-- CLEAR_DRIVE_FAULT (R85). -/
def execClearDriveFault (p : PortId) (tag : Byte) (s : State) : Out :=
  takeDirect p (reqClearDriveFault p tag) s

end Sys2Proof.Machine
end

