-- ==== Sys2Proof/Machine/Sounder.lean ====
section
/-!
DEFINITION. The Sounder's rows: PERIOD_END, SET_TONE, CHIME (chapter Sounder).
-/

namespace Sys2Proof.Machine

/-! ### PERIOD_END (R142, R143) -/

/-- The entry is finite and has played its repeats (R142). -/
def ToneEntry.reached (t : ToneEntry) (completed : Nat) : Bool :=
  decide (t.repeats ≠ 0 ∧ completed = t.repeats)

/-- The pattern record changes. -/
def State.setPattern (pt : Pattern) (s : State) : State := { s with pattern := some pt }

/-- A finite pattern ends (R143): an alert is silenced, a chime leaves the queue, a test is ENDED. Its end
alone has the source chosen again (R139). -/
def State.endPattern (pt : Pattern) (s : State) : State :=
  match pt.source with
  | .test => s.setPattern { pt with phase := .ended }
  | .alert src code =>
    ({ s with pattern := none }.listChange (State.silenceEnded src code)).driveReact.chooseSource
  | .chime => s.dropChime.chooseSource

/-- The present period ends, if its last tick has been counted (R142). -/
def State.endPeriod (s : State) : State :=
  match s.pattern with
  | none => s
  | some pt =>
    let t := s.tones[pt.entry]
    match pt.phase with
    | .on 0 =>
      let n := (pt.completed + 1) % 256
      let q := { pt with completed := n }
      if t.offTicks ≠ 0 then s.setPattern { q with phase := .off t.offTicks }
      else if t.reached n then s.endPattern q
      else s.setPattern { q with phase := .on t.onTicks }
    | .off 0 =>
      if t.reached pt.completed then s.endPattern pt
      else s.setPattern { pt with phase := .on t.onTicks }
    | _ => s

/-- PERIOD_END (R142, R143). -/
def execPeriodEnd (s : State) : Out := .next (s.whole State.endPeriod)

/-! ### SET_TONE (R137) -/

/-- The entry a SET_TONE carries (R137, R206). -/
def toneEntryOf (primary secondaryPresent secondary mix amplitude onTicks offTicks repeats : Byte) :
    ToneEntry where
  primary := primary
  secondary := if yes secondaryPresent then some secondary else none
  mix := if yes mix then .alternate else .together
  amplitude := amplitude.toNat
  onTicks := onTicks.toNat
  offTicks := offTicks.toNat
  repeats := repeats.toNat

/-- The entry is replaced; a pattern that plays it restarts (R137). -/
def State.setTone (entry : ToneId) (t : ToneEntry) (s : State) : State :=
  let u := { s with tones := s.tones.set entry t }
  match s.pattern with
  | none => u
  | some pt => if pt.entry = entry then u.startPattern pt.source entry else u

def runSetTone (entry : Byte) (t : ToneEntry) (s : State) : State × Reply :=
  (s.setTone (toneOf entry) t, some (.ok, []))

def reqSetTone (p : PortId) (tag entry primary secondaryPresent secondary mix amplitude onTicks offTicks
    repeats : Byte) : State → State :=
  admission p tag .setTone true (setToneOk entry secondaryPresent mix amplitude onTicks) true
    (runSetTone entry (toneEntryOf primary secondaryPresent secondary mix amplitude onTicks offTicks repeats))

/-- SET_TONE (R137). -/
def execSetTone (p : PortId) (tag entry primary secondaryPresent secondary mix amplitude onTicks offTicks
    repeats : Byte) (s : State) : Out :=
  takeDirect p (reqSetTone p tag entry primary secondaryPresent secondary mix amplitude onTicks offTicks
    repeats) s

/-! ### CHIME (R146) -/

def runChime (tone : Byte) (s : State) : State × Reply :=
  if s.tones[toneOf tone].repeats = 0 then (s, some (.badValue, []))
  else if 4 ≤ s.chimes.length then (s, some (.full, []))
  else ({ s with chimes := s.chimes ++ [toneOf tone] }, some (.ok, []))

def reqChime (p : PortId) (tag tone : Byte) : State → State :=
  admission p tag .chime true (within 1 7 tone) false (runChime tone)

/-- CHIME (R146). -/
def execChime (p : PortId) (tag tone : Byte) (s : State) : Out := takeDirect p (reqChime p tag tone) s

end Sys2Proof.Machine
end

