-- ==== Sys2Proof/Config.lean ====
section
/-!
DEFINITION. The free value of the model: an order the spec leaves open.
-/

namespace Sys2Proof

/-- Which of several events due at one moment is taken next, where neither the spec nor the queue of
commands says (R56, R81, R144, R155, R163, R190: either order). It has no body, so a statement
that holds, holds for every order. `n` numbers the draws (`State.choices`). Log 2. -/
opaque Config.freeOrder (n : Nat) : Nat

end Sys2Proof
end

