-- ==== Sys2Proof/Machine/TimeBase.lean ====
section
/-!
DEFINITION. The Time Base's rows: TICK_EVENT, SECOND_EVENT, BLINK_EVENT, SET_TIME (chapter Time Base),
and the events that a tick leaves due (log 2): each is taken by its own row, and those still due when
the next tick event or a SET_TIME comes are taken before it, in an order the spec leaves open.
-/

namespace Sys2Proof.Machine

/-! ### SECOND_EVENT and BLINK_EVENT (R164, R165) -/

/-- SECOND_EVENT (R164). -/
def execSecondEvent (s : State) : Out := .next (s.whole State.takeSecond)

/-- The blink event of this moment is handed on, if that is still to be done: the phase toggles (R165). -/
def State.takeBlink (s : State) : State :=
  if s.time.blinkDue then
    { s with time := { s.time with blinkDue := false } }.setPhase (!s.time.phase)
  else s

/-- BLINK_EVENT (R165). -/
def execBlinkEvent (s : State) : Out := .next (s.whole State.takeBlink)

/-! ### Events that are due (log 2) -/

/-- The events a tick event can leave due. -/
inductive Due where
  | completion (e : EngineId)
  | rise
  | hold
  | fall
  | retry
  | period
  | ackPress
  | ackRelease
  | ackHold
  | silencePress
  | silenceRelease
  | testPress
  | testRelease
  | second
  | blink
  | shelving
  | refresh
  | loss (p : PortId)
  | waitEnd (p : PortId)
  deriving DecidableEq, Repr

/-- The job of an engine has passed its last frame (R56). -/
def State.completionDue (e : EngineId) (s : State) : Bool :=
  match s.engines[e] with
  | some j => decide (j.frames = 0)
  | none => false

/-- The pattern's period has counted its last tick (R142). -/
def State.periodDue (s : State) : Bool :=
  match s.pattern with
  | some ⟨_, _, .on 0, _⟩ => true
  | some ⟨_, _, .off 0, _⟩ => true
  | _ => false

def State.isDue (s : State) : Due → Bool
  | .completion e => s.completionDue e
  | .rise => decide (s.rail.state = .rising 0)
  | .hold => decide (s.rail.state = .on (some 0))
  | .fall => decide (s.rail.state = .falling 0)
  | .retry => decide (s.rail.state = .fault (some 0))
  | .period => s.periodDue
  | .ackPress => s.keys.ack.pressDue
  | .ackRelease => s.keys.ack.releaseDue
  | .ackHold => s.keys.holdDue
  | .silencePress => s.keys.silence.pressDue
  | .silenceRelease => s.keys.silence.releaseDue
  | .testPress => s.keys.test.pressDue
  | .testRelease => s.keys.test.releaseDue
  | .second => s.time.secondDue
  | .blink => s.time.blinkDue
  | .shelving => s.shelvingDue
  | .refresh => s.refreshDue
  | .loss p => s.ports[p].lossDue
  | .waitEnd p => s.ports[p].timeoutDue

/-- Every event that can be due. -/
def Due.all : List Due :=
  [.completion 0, .completion 1, .completion 2, .completion 3, .rise, .hold, .fall, .retry, .period,
   .ackPress, .ackRelease, .ackHold, .silencePress, .silenceRelease, .testPress, .testRelease, .second,
   .blink, .shelving, .refresh]
  ++ portIds.map Due.loss ++ portIds.map Due.waitEnd

/-- The events due now. -/
def State.dueNow (s : State) : List Due := Due.all.filter s.isDue

/-- What a due event does, as its row does it. -/
def Due.act : Due → State → State
  | .completion e => State.completeJob e
  | .rise => State.expireRise
  | .hold => State.expireHold
  | .fall => State.expireFall
  | .retry => State.expireRetry
  | .period => State.endPeriod
  | .ackPress => State.pressAck
  | .ackRelease => State.releaseAck
  | .ackHold => State.holdAck
  | .silencePress => State.pressSilence
  | .silenceRelease => State.releaseSilence
  | .testPress => State.pressTest
  | .testRelease => State.releaseTest
  | .second => State.takeSecond
  | .blink => State.takeBlink
  | .shelving => State.expireShelving
  | .refresh => State.expireRefresh
  | .loss p => State.loseIfDue p
  | .waitEnd p => State.timeOutWait p

/-- One due event is taken: the one there is, or, of several, one drawn from the open order. -/
def State.takeOneDue (s : State) : State :=
  match s.dueNow with
  | [] => s
  | [d] => s.whole d.act
  | d :: rest =>
    { s with choices := s.choices + 1 }.whole
      ((d :: rest).getD (Config.freeOrder s.choices % (rest.length + 1)) d).act

/-- Due events are taken until none is left, at most `fuel` of them. -/
def State.takeAllDue : Nat → State → State
  | 0, s => s
  | fuel + 1, s => if s.dueNow = [] then s else s.takeOneDue.takeAllDue fuel

/-- All events still due at this moment are taken. There are 28 of them at most, and none makes another
due but the second event, which can make ten due. -/
def State.settle (s : State) : State := s.takeAllDue 38

/-! ### TICK_EVENT (R163) -/

/-- The time a tick event brings (R163, R164), with the second and blink events it makes (R164, R165). -/
def TimeBase.advance (t : TimeBase) : TimeBase :=
  { t with
    tick := t.tick + 1
    seconds := if t.tick = 63 then t.seconds + 1 else t.seconds
    secondDue := t.secondDue || decide (t.tick = 63)
    blinkDue := xor t.blinkDue (decide (t.tick = 63 ∨ t.tick = 31)) }

/-- One frame of a job passes (R55). -/
def Job.tick (j : Job) : Job := { j with frames := j.frames - 1 }

/-- The rail's running timer counts a tick event (R76). -/
def RailState.tick : RailState → RailState
  | .off => .off
  | .rising n => .rising (n - 1)
  | .on h => .on (h.map (· - 1))
  | .falling n => .falling (n - 1)
  | .fault r => .fault (r.map (· - 1))

/-- The pattern's period counts a tick event (R142). -/
def PatternPhase.tick : PatternPhase → PatternPhase
  | .on n => .on (n - 1)
  | .off n => .off (n - 1)
  | .ended => .ended

def Pattern.tick (pt : Pattern) : Pattern := { pt with phase := pt.phase.tick }

/-- The three keys are sampled (R151) and hold ticks count while ACK is HELD (R154). -/
def Keys.tick (ack silence test : Bool) (k : Keys) : Keys :=
  let counts := k.ack.held && decide (k.holdTicks < 128)
  { ack := k.ack.sample ack
    silence := k.silence.sample silence
    test := k.test.sample test
    holdTicks := if counts then k.holdTicks + 1 else k.holdTicks
    holdDue := k.holdDue || (counts && decide (k.holdTicks = 127)) }

/-- The tick event is handed to each block that counts tick events (R163). -/
def State.tick (ack silence test : Bool) (s : State) : State :=
  { s with
    time := s.time.advance
    engines := #v[s.engines[0].map Job.tick, s.engines[1].map Job.tick, s.engines[2].map Job.tick,
      s.engines[3].map Job.tick]
    rail := { s.rail with state := s.rail.state.tick }
    pattern := s.pattern.map Pattern.tick
    keys := s.keys.tick ack silence test }

/-- TICK_EVENT (R163): what the last tick left due is taken, then the tick is counted. -/
def execTickEvent (ack silence test : Bool) (s : State) : Out :=
  .next (s.settle.tick ack silence test).finish

/-! ### SET_TIME (R168) -/

/-- The changes of an accepted SET_TIME (R168); no second or blink event of an earlier tick outlives it. The
drive answers the blink event of step 3 before the unshelvings of step 4: the model's choice (log 24). -/
def State.setTime (seconds : BitVec 32) (s : State) : State :=
  let t := { s with time := ⟨0, seconds, s.time.phase, false, false⟩ }
  (if s.time.phase then t else t.setPhase true).listEvent State.unshelveExpired

/-- SET_TIME's own work, after what the tick event already taken has left due (R170; log 8). -/
def runSetTime (p : PortId) (seconds : BitVec 32) (s : State) : State × Reply :=
  afterDue p State.settle (fun t => (t.setTime seconds, some (.ok, []))) s

def reqSetTime (p : PortId) (tag : Byte) (seconds : BitVec 32) : State → State :=
  admission p tag .setTime true true true (runSetTime p seconds)

/-- SET_TIME (R168). -/
def execSetTime (p : PortId) (tag : Byte) (seconds : BitVec 32) (s : State) : Out :=
  takeDirect p (reqSetTime p tag seconds) s

end Sys2Proof.Machine
end

