-- ==== Sys2Proof/Machine/Windows.lean ====
section
/-!
DEFINITION. The window requests (chapter Windows and the Cell Pool): OPEN_WINDOW, CLOSE_WINDOW,
MOVE_WINDOW, SET_WINDOW, WRITE_CELLS, FILL_CELLS, READ_CELLS, FLUSH. `run…` makes the Window Table's own
checks in the order its rule gives, `req…` is the request with its admission, `exec…` the row's meaning.
-/

namespace Sys2Proof.Machine

/-- A refusal by the Window Table: it changes nothing (R45). -/
def refused (st : Status) (s : State) : State × Reply := (s, some (st, []))

/-! ### OPEN_WINDOW (R25, R26) -/

/-- The window an accepted OPEN_WINDOW opens (R26). -/
def openedWindow (p : PortId) (r : Rect) (level : Nat) : Window where
  owner := p
  row := r.row
  col := r.col
  height := r.height
  width := r.width
  level := level
  visible := true
  writers := 0
  working := List.replicate (r.height * r.width) background
  published := none

def runOpenWindow (p : PortId) (row col height width level : Byte) (s : State) : State × Reply :=
  let r : Rect := ⟨row.toNat, col.toNat, height.toNat, width.toNat⟩
  match s.freeEntry with
  | none => refused .noWindow s
  | some i =>
    if !r.inPanel then refused .outOfPanel s
    else if s.overlaps none level.toNat r then refused .overlap s
    else if s.freeCells < r.height * r.width then refused .noSpace s
    else ((s.setEntry i (some (openedWindow p r level.toNat))).composed s.view r.tiles,
      some (.ok, [byteOf i.val]))

def reqOpenWindow (p : PortId) (tag row col height width level : Byte) : State → State :=
  admission p tag .openWindow true (openWindowOk row col height width level) false
    (runOpenWindow p row col height width level)

/-- OPEN_WINDOW (R25, R26). -/
def execOpenWindow (p : PortId) (tag row col height width level : Byte) (s : State) : Out :=
  takeDirect p (reqOpenWindow p tag row col height width level) s

/-! ### CLOSE_WINDOW (R27) -/

def runCloseWindow (p : PortId) (window : Byte) (s : State) : State × Reply :=
  match s.windows[windowOf window] with
  | none => refused .noWindow s
  | some w =>
    if w.owner ≠ p then refused .notOwner s
    else (s.closeWindows [windowOf window], some (.ok, []))

def reqCloseWindow (p : PortId) (tag window : Byte) : State → State :=
  admission p tag .closeWindow true (upTo 15 window) false (runCloseWindow p window)

/-- CLOSE_WINDOW (R27). -/
def execCloseWindow (p : PortId) (tag window : Byte) (s : State) : Out :=
  takeDirect p (reqCloseWindow p tag window) s

/-! ### MOVE_WINDOW (R29, R30) -/

def runMoveWindow (p : PortId) (window row col level : Byte) (s : State) : State × Reply :=
  let i := windowOf window
  match s.windows[i] with
  | none => refused .noWindow s
  | some w =>
    let v := { w with row := row.toNat, col := col.toNat, level := level.toNat }
    if w.owner ≠ p then refused .notOwner s
    else if !v.rect.inPanel then refused .outOfPanel s
    else if s.overlaps (some i) v.level v.rect then refused .overlap s
    else
      let t := (s.setEntry i (some v)).compositorEvent s.view
        (tileIds.filter fun n => w.rect.touches n || v.rect.touches n)
      ((t.movedReport i).driveReact, some (.ok, []))

def reqMoveWindow (p : PortId) (tag window row col level : Byte) : State → State :=
  admission p tag .moveWindow true (moveWindowOk window row col level) false
    (runMoveWindow p window row col level)

/-- MOVE_WINDOW (R29, R30, R72). -/
def execMoveWindow (p : PortId) (tag window row col level : Byte) (s : State) : Out :=
  takeDirect p (reqMoveWindow p tag window row col level) s

/-! ### SET_WINDOW (R31 to R35) -/

/-- The writers set recorded: the owner is left out (R22, R35). -/
def writersOf (owner : PortId) (b : Byte) : BitVec 4 := b.setWidth 4 &&& ~~~(1#4 <<< owner.val)

/-- The window with its three settings (R31 to R35): a window that becomes deferred gets a copy of its
working content (R33), one that stays deferred keeps its copy, one that is not deferred has none (R34). -/
def Window.withSettings (visible deferred : Bool) (writers : Byte) (w : Window) : Window :=
  { w with
    published := if deferred then some w.shown else none
    visible := visible
    writers := writersOf w.owner writers }

def runSetWindow (p : PortId) (window visible deferred writers : Byte) (s : State) : State × Reply :=
  let i := windowOf window
  match s.windows[i] with
  | none => refused .noWindow s
  | some w =>
    if w.owner ≠ p then refused .notOwner s
    else if yes deferred && !w.deferred && decide (s.freeCells < w.area) then refused .noSpace s
    else
      let t := s.setEntry i (some (w.withSettings (yes visible) (yes deferred) writers))
      (if (w.deferred && !yes deferred) || decide (w.visible ≠ yes visible)
        then t.composed s.view w.rect.tiles else t, some (.ok, []))

def reqSetWindow (p : PortId) (tag window visible deferred writers : Byte) : State → State :=
  admission p tag .setWindow true (setWindowOk window visible deferred writers) false
    (runSetWindow p window visible deferred writers)

/-- SET_WINDOW (R31 to R35). -/
def execSetWindow (p : PortId) (tag window visible deferred writers : Byte) (s : State) : Out :=
  takeDirect p (reqSetWindow p tag window visible deferred writers) s

/-! ### WRITE_CELLS and FILL_CELLS (R37 to R39) -/

/-- The working content of a window changes; the Compositor takes an event when it is not deferred (R11,
R38). -/
def State.writeContent (i : WindowId) (w : Window) (content : List CellValue) (s : State) : State :=
  let t := s.setEntry i (some { w with working := content })
  if w.deferred then t else t.composed s.view w.rect.tiles

def runWriteCells (p : PortId) (window row col : Byte) (cells : List Byte) (s : State) : State × Reply :=
  let i := windowOf window
  let run := cellsOf cells
  match s.windows[i] with
  | none => refused .noWindow s
  | some w =>
    if !w.mayWrite p then refused .writeDenied s
    else if !w.runInside row.toNat col.toNat run.length then refused .outOfWindow s
    else (s.writeContent i w (writeRun w.working (row.toNat * w.width + col.toNat) run), some (.ok, []))

def reqWriteCells (p : PortId) (tag window row col : Byte) (cells : List Byte) : State → State :=
  admission p tag .writeCells (cellsLengthOk cells) (writeCellsOk window row col cells) false
    (runWriteCells p window row col cells)

/-- WRITE_CELLS (R37, R38). -/
def execWriteCells (p : PortId) (tag window row col : Byte) (cells : List Byte) (s : State) : Out :=
  takeDirect p (reqWriteCells p tag window row col cells) s

def runFillCells (p : PortId) (window row col height width glyph attr : Byte) (s : State) : State × Reply :=
  let i := windowOf window
  match s.windows[i] with
  | none => refused .noWindow s
  | some w =>
    if !w.mayWrite p then refused .writeDenied s
    else if w.height < row.toNat + height.toNat ∨ w.width < col.toNat + width.toNat then refused .outOfWindow s
    else (s.writeContent i w (fillRect w.working w.width
        ⟨row.toNat, col.toNat, height.toNat, width.toNat⟩ (cellOf glyph attr)), some (.ok, []))

def reqFillCells (p : PortId) (tag window row col height width glyph attr : Byte) : State → State :=
  admission p tag .fillCells true (fillCellsOk window row col height width attr) false
    (runFillCells p window row col height width glyph attr)

/-- FILL_CELLS (R39). -/
def execFillCells (p : PortId) (tag window row col height width glyph attr : Byte) (s : State) : Out :=
  takeDirect p (reqFillCells p tag window row col height width glyph attr) s

/-! ### READ_CELLS (R40) -/

def runReadCells (window row col count : Byte) (s : State) : State × Reply :=
  match s.windows[windowOf window] with
  | none => refused .noWindow s
  | some w =>
    if !w.runInside row.toNat col.toNat count.toNat then refused .outOfWindow s
    else (s, some (.ok,
      (((w.working.drop (row.toNat * w.width + col.toNat)).take count.toNat).map CellValue.bytes).flatten))

def reqReadCells (p : PortId) (tag window row col count : Byte) : State → State :=
  admission p tag .readCells true (readCellsOk window row col count) false (runReadCells window row col count)

/-- READ_CELLS (R40). -/
def execReadCells (p : PortId) (tag window row col count : Byte) (s : State) : Out :=
  takeDirect p (reqReadCells p tag window row col count) s

/-! ### FLUSH (R41) -/

def runFlush (p : PortId) (window : Byte) (s : State) : State × Reply :=
  let i := windowOf window
  match s.windows[i] with
  | none => refused .noWindow s
  | some w =>
    if !w.mayWrite p then refused .writeDenied s
    else if w.deferred then
      ((s.setEntry i (some { w with published := some w.working })).composed s.view w.rect.tiles,
        some (.ok, []))
    else (s, some (.ok, []))

def reqFlush (p : PortId) (tag window : Byte) : State → State :=
  admission p tag .flush true (upTo 15 window) false (runFlush p window)

/-- FLUSH (R41). -/
def execFlush (p : PortId) (tag window : Byte) (s : State) : Out := takeDirect p (reqFlush p tag window) s

end Sys2Proof.Machine
end

