-- ==== Sys2Proof/Machine/Carry.lean ====
section
/-!
DEFINITION. A request body read by its layout (R203, R205) and carried through admission to its owning
block (R180, R181), and the body of each request row.
-/

namespace Sys2Proof.Machine

/-- A 16-bit operand, low byte first (R203). -/
def word16 (b0 b1 : Byte) : BitVec 16 := b1 ++ b0

/-- A 32-bit operand, low byte first (R203). -/
def word32 (b0 b1 b2 b3 : Byte) : BitVec 32 := b3 ++ b2 ++ b1 ++ b0

/-- A body whose length its request code does not allow (check 3 of R181; R205). -/
def badLength (p : PortId) (tag : Byte) (rc : RequestCode) : State → State :=
  admission p tag rc false true false fun s => (s, none)

/-- The request whose operand bytes lie as R205 gives them; other lengths are refused. -/
def carry (p : PortId) (tag : Byte) (rc : RequestCode) (ops : List Byte) : State → State :=
  match rc with
  | .attach => match ops with
    | [role, keepalive, lossAction] => reqAttach p tag role keepalive lossAction
    | _ => badLength p tag rc
  | .detach => match ops with
    | [] => reqDetach p tag
    | _ => badLength p tag rc
  | .status => State.statusArrives p tag ops
  | .resetPort => match ops with
    | [] => reqResetPort p tag
    | _ => badLength p tag rc
  | .setFilter => match ops with
    | [filter, enabled, mode, av, am, cv, cm] => reqSetFilter p tag filter enabled mode av am cv cm
    | _ => badLength p tag rc
  | .setNotices => match ops with
    | [setting] => reqSetNotices p tag setting
    | _ => badLength p tag rc
  | .waitSettled => match ops with
    | [window, timeout] => reqWaitSettled p tag window timeout
    | _ => badLength p tag rc
  | .openWindow => match ops with
    | [row, col, height, width, level] => reqOpenWindow p tag row col height width level
    | _ => badLength p tag rc
  | .closeWindow => match ops with
    | [window] => reqCloseWindow p tag window
    | _ => badLength p tag rc
  | .moveWindow => match ops with
    | [window, row, col, level] => reqMoveWindow p tag window row col level
    | _ => badLength p tag rc
  | .setWindow => match ops with
    | [window, visible, deferred, writers] => reqSetWindow p tag window visible deferred writers
    | _ => badLength p tag rc
  | .writeCells => match ops with
    | window :: row :: col :: cells => reqWriteCells p tag window row col cells
    | _ => badLength p tag rc
  | .fillCells => match ops with
    | [window, row, col, height, width, glyph, attr] =>
      reqFillCells p tag window row col height width glyph attr
    | _ => badLength p tag rc
  | .readCells => match ops with
    | [window, row, col, count] => reqReadCells p tag window row col count
    | _ => badLength p tag rc
  | .flush => match ops with
    | [window] => reqFlush p tag window
    | _ => badLength p tag rc
  | .fullRefresh => match ops with
    | [selector, window] => reqFullRefresh p tag selector window
    | _ => badLength p tag rc
  | .setRefreshPeriod => match ops with
    | [minutes] => reqSetRefreshPeriod p tag minutes
    | _ => badLength p tag rc
  | .setHold => match ops with
    | [seconds] => reqSetHold p tag seconds
    | _ => badLength p tag rc
  | .clearDriveFault => match ops with
    | [] => reqClearDriveFault p tag
    | _ => badLength p tag rc
  | .raiseAlert => match ops with
    | code :: area :: cls :: severity :: lamp :: tone :: message =>
      reqRaiseAlert p tag code area cls severity lamp tone message
    | _ => badLength p tag rc
  | .clearAlert => match ops with
    | [code] => reqClearAlert p tag code
    | _ => badLength p tag rc
  | .ackAlert => match ops with
    | [source, code] => reqAckAlert p tag source code
    | _ => badLength p tag rc
  | .shelveAlert => match ops with
    | [source, code, b0, b1] => reqShelveAlert p tag source code (word16 b0 b1)
    | _ => badLength p tag rc
  | .unshelveAlert => match ops with
    | [source, code] => reqUnshelveAlert p tag source code
    | _ => badLength p tag rc
  | .listAlerts => match ops with
    | [start] => reqListAlerts p tag start
    | _ => badLength p tag rc
  | .setBanner => match ops with
    | [height] => reqSetBanner p tag height
    | _ => badLength p tag rc
  | .setTone => match ops with
    | [entry, primary, present, secondary, mix, amplitude, onTicks, offTicks, repeats] =>
      reqSetTone p tag entry primary present secondary mix amplitude onTicks offTicks repeats
    | _ => badLength p tag rc
  | .chime => match ops with
    | [tone] => reqChime p tag tone
    | _ => badLength p tag rc
  | .panelTest => match ops with
    | [setting] => reqPanelTest p tag setting
    | _ => badLength p tag rc
  | .blank => match ops with
    | [setting] => reqBlank p tag setting
    | _ => badLength p tag rc
  | .setTime => match ops with
    | [b0, b1, b2, b3] => reqSetTime p tag (word32 b0 b1 b2 b3)
    | _ => badLength p tag rc

/-- A request whose code is not in the table of R205: checks 1 and 2 of R181. -/
def unknownRequest (p : PortId) (tag code : Byte) (s : State) : State :=
  s.refuse p tag code (if s.ports[p].state = .attached then .unknownRequest else .notAttached)

/-- A request body is taken: kind, tag, code, operands (R203). -/
def carryBody (p : PortId) (body : List Byte) : State → State :=
  match body with
  | _ :: tag :: code :: ops => match RequestCode.ofByte code with
    | some rc => carry p tag rc ops
    | none => unknownRequest p tag code
  | _ => id

/-- The events of the last tick, still due, that the taking of a request body takes first (log 8). -/
def firstOf (p : PortId) (body : List Byte) : State → State :=
  match body with
  | _ :: _ :: code :: _ => match RequestCode.ofByte code with
    | some .attach => State.secondFirst p
    | some .waitSettled => State.secondFirst p
    | some .setRefreshPeriod => fun s => (s.secondFirst p).expiryFirst
    | some .setTime => State.settle
    | _ => id
  | _ => id

/-- The body of a request (R203): kind 1, tag, code, operands. -/
def bodyOf (tag : Byte) (rc : RequestCode) (ops : List Byte) : List Byte := 1 :: tag :: rc.byte :: ops

/-- The port and body of a request row, as R205 lays it out; none for a row that is no request. -/
def requestBody : Instr → Option (PortId × List Byte)
  | .attach p tag role keepalive lossAction => some (p, bodyOf tag .attach [role, keepalive, lossAction])
  | .detach p tag => some (p, bodyOf tag .detach [])
  | .status p tag extra => some (p, bodyOf tag .status extra)
  | .resetPort p tag => some (p, bodyOf tag .resetPort [])
  | .setFilter p tag filter enabled mode av am cv cm =>
    some (p, bodyOf tag .setFilter [filter, enabled, mode, av, am, cv, cm])
  | .setNotices p tag setting => some (p, bodyOf tag .setNotices [setting])
  | .waitSettled p tag window timeout => some (p, bodyOf tag .waitSettled [window, timeout])
  | .openWindow p tag row col height width level =>
    some (p, bodyOf tag .openWindow [row, col, height, width, level])
  | .closeWindow p tag window => some (p, bodyOf tag .closeWindow [window])
  | .moveWindow p tag window row col level => some (p, bodyOf tag .moveWindow [window, row, col, level])
  | .setWindow p tag window visible deferred writers =>
    some (p, bodyOf tag .setWindow [window, visible, deferred, writers])
  | .writeCells p tag window row col cells =>
    some (p, bodyOf tag .writeCells (window :: row :: col :: cells))
  | .fillCells p tag window row col height width glyph attr =>
    some (p, bodyOf tag .fillCells [window, row, col, height, width, glyph, attr])
  | .readCells p tag window row col count => some (p, bodyOf tag .readCells [window, row, col, count])
  | .flush p tag window => some (p, bodyOf tag .flush [window])
  | .fullRefresh p tag selector window => some (p, bodyOf tag .fullRefresh [selector, window])
  | .setRefreshPeriod p tag minutes => some (p, bodyOf tag .setRefreshPeriod [minutes])
  | .setHold p tag seconds => some (p, bodyOf tag .setHold [seconds])
  | .clearDriveFault p tag => some (p, bodyOf tag .clearDriveFault [])
  | .raiseAlert p tag code area cls severity lamp tone message =>
    some (p, bodyOf tag .raiseAlert ([code, area, cls, severity, lamp, tone] ++ message))
  | .clearAlert p tag code => some (p, bodyOf tag .clearAlert [code])
  | .ackAlert p tag source code => some (p, bodyOf tag .ackAlert [source, code])
  | .shelveAlert p tag source code seconds =>
    some (p, bodyOf tag .shelveAlert ([source, code] ++ bytesOf16 seconds.toNat))
  | .unshelveAlert p tag source code => some (p, bodyOf tag .unshelveAlert [source, code])
  | .listAlerts p tag start => some (p, bodyOf tag .listAlerts [start])
  | .setBanner p tag height => some (p, bodyOf tag .setBanner [height])
  | .setTone p tag entry primary present secondary mix amplitude onTicks offTicks repeats =>
    some (p, bodyOf tag .setTone
      [entry, primary, present, secondary, mix, amplitude, onTicks, offTicks, repeats])
  | .chime p tag tone => some (p, bodyOf tag .chime [tone])
  | .panelTest p tag setting => some (p, bodyOf tag .panelTest [setting])
  | .blank p tag setting => some (p, bodyOf tag .blank [setting])
  | .setTime p tag seconds => some (p, bodyOf tag .setTime (bytesOf32 seconds))
  | _ => none

end Sys2Proof.Machine
end

