-- ==== Sys2Proof/Machine/Link.lean ====
section
/-!
DEFINITION. The framing of the links: bits and bytes, the check, bit stuffing, flags and aborts (R172,
R173), and what a received frame comes to (R174). Lines and contents are lists of bits in the order in
which they are sent.
-/

namespace Sys2Proof.Machine

/-! ### Bytes and bits (R172) -/

/-- A byte as sent: least significant bit first. -/
def bitsOfByte (b : Byte) : List Bool := (List.range 8).map b.getLsbD

def bitsOfBytes (bs : List Byte) : List Bool := (bs.map bitsOfByte).flatten

/-- The byte of up to eight bits, least significant first. -/
def byteOfBits (bits : List Bool) : Byte :=
  byteOf (bits.foldr (fun b n => 2 * n + if b then 1 else 0) 0)

/-- Whole bytes of a run of bits; a rest of fewer than eight is dropped. -/
def bytesOfBits : List Bool → List Byte
  | b0 :: b1 :: b2 :: b3 :: b4 :: b5 :: b6 :: b7 :: rest =>
    byteOfBits [b0, b1, b2, b3, b4, b5, b6, b7] :: bytesOfBits rest
  | _ => []

/-! ### The check (R173) -/

/-- One bit enters the check register, for x^16 + x^12 + x^5 + 1. Bit n holds the coefficient of x^n. -/
def crcStep (r : BitVec 16) (b : Bool) : BitVec 16 :=
  if xor (r.getLsbD 15) b then r <<< 1 ^^^ 0x1021 else r <<< 1

/-- The complemented check of a body's bits, the register preset to all ones. -/
def crc (bits : List Bool) : BitVec 16 := ~~~bits.foldl crcStep 0xFFFF

/-- The 16 check bits as sent, from the coefficient of x^15 to that of x^0. -/
def checkBits (bits : List Bool) : List Bool := (List.range 16).map fun i => (crc bits).getLsbD (15 - i)

/-- The content of a frame: the body and its check (R173). -/
def contentOf (body : List Byte) : List Bool := bitsOfBytes body ++ checkBits (bitsOfBytes body)

/-! ### Stuffing and flags (R172) -/

/-- Content as sent: a 0 after every five 1 bits in a row. `ones` counts the 1 bits just sent. -/
def stuff : Nat → List Bool → List Bool
  | _, [] => []
  | _, false :: rest => false :: stuff 0 rest
  | ones, true :: rest => if ones = 4 then true :: false :: stuff 0 rest else true :: stuff (ones + 1) rest

/-- 01111110. -/
def flagBits : List Bool := [false, true, true, true, true, true, true, false]

/-- What follows the opening flag of a frame with this body, up to its closing flag (R172, R175). -/
def lineOf (body : List Byte) : List Bool := stuff 0 (contentOf body) ++ flagBits

/-- A whole frame as the part sends it, from its opening flag to its closing flag (R175). -/
def frameBits (body : List Byte) : List Bool := flagBits ++ lineOf body

/-- How a frame ends. -/
inductive LineScan where
  /-- The line holds no flag and no abort yet: the frame is still arriving. -/
  | arriving
  /-- A closing flag, after this content. -/
  | closed (content : List Bool)
  /-- An abort, after this content. -/
  | aborted (content : List Bool)
  deriving DecidableEq, Repr

/-- The content without the last six 1 bits and the 0 before them: the part of a flag already read.
`acc` is in reverse. -/
def beforeFlag (acc : List Bool) : List Bool :=
  match acc.drop 6 with
  | false :: rest => rest.reverse
  | rest => rest.reverse

/-- Read a line, bit by bit: a 0 after five 1 bits is deleted, six 1 bits and a 0 are a flag, seven 1 bits
an abort (R172). `ones` counts the 1 bits in a row, `acc` is the content so far in reverse. -/
def scanLine : Nat → List Bool → List Bool → LineScan
  | _, _, [] => .arriving
  | ones, acc, true :: rest =>
    if ones = 6 then .aborted (acc.drop 6).reverse else scanLine (ones + 1) (true :: acc) rest
  | ones, acc, false :: rest =>
    if ones = 6 then .closed (beforeFlag acc)
    else if ones = 5 then scanLine 0 acc rest
    else scanLine 0 (false :: acc) rest

/-! ### What a frame comes to (R174) -/

inductive Received where
  /-- No frame: still arriving, or nothing but idle fill between two flags (R172; log 11). -/
  | nothing
  /-- Discarded with RX_ERROR; `good` when its check is correct. -/
  | discarded (good : Bool)
  /-- A request frame, with its body. -/
  | request (body : List Byte)
  deriving DecidableEq, Repr

/-- The outcome of a frame closed by a flag, by the first row of R174's table that applies. -/
def judgeContent (content : List Bool) : Received :=
  if content.length % 8 ≠ 0 then .discarded false
  else if content.length < 16 then .discarded false
  else
    let bodyBits := content.take (content.length - 16)
    let body := bytesOfBits bodyBits
    if content.drop (content.length - 16) ≠ checkBits bodyBits then .discarded false
    else if body.length < 3 ∨ 112 < body.length then .discarded true
    else if body.head? = some 1 then .request body else .discarded true

/-- The line between two flags is idle fill: no bits, or a bare run of 1 bits directly before the flag (R172;
log 11). Content with a 0 in it as sent is content, be it an inserted 0. -/
def idleFill (line content : List Bool) : Bool := content.isEmpty || flagBits.isPrefixOf (line.dropWhile id)

/-- The outcome of the line bits that follow an opening flag (R172, R174; log 11). -/
def receive (line : List Bool) : Received :=
  match scanLine 0 [] line with
  | .arriving => .nothing
  | .closed content => if idleFill line content then .nothing else judgeContent content
  | .aborted content => if content.isEmpty then .nothing else .discarded false

end Sys2Proof.Machine
end

