-- ==== Sys2Proof/Machine/LinkRows.lean ====
section
/-!
DEFINITION. The rows of the links and of the receive buffer: FRAME_RECEIVED, TAKE_REQUEST,
TRANSMISSION_START, TRANSMISSION_END, and POWER_ON_RESET.
-/

namespace Sys2Proof.Machine

/-! ### TAKE_REQUEST (R180) -/

/-- The oldest request leaves the buffer and is carried to its block, if the port can take one (R180). -/
def State.takeRequest (p : PortId) (s : State) : State :=
  match s.ports[p].rx with
  | [] => s
  | body :: rest =>
    if s.ports[p].canTake then carryBody p body (s.modifyPort p fun u => { u with rx := rest }) else s

/-- TAKE_REQUEST (R180, R181). -/
def execTakeRequest (p : PortId) (s : State) : Out := .next (s.takeRequest p).finish

/-! ### FRAME_RECEIVED (R174, R178, R186) -/

/-- A good frame sets a running keepalive count to 0 (R186). -/
def PortUnit.goodFrame (u : PortUnit) : PortUnit :=
  { u with keepaliveCount := u.keepaliveCount.map fun _ => 0 }

/-- A request frame enters the receive buffer, or is discarded with OVERRUN while it holds two (R178). -/
def PortUnit.buffer (body : List Byte) (u : PortUnit) : PortUnit :=
  if u.rx.length < 2 then { u with rx := u.rx ++ [body] } else u.setOverrun

/-- The code and operands of a body whose request code is STATUS, with its tag (R178, R194). -/
def statusRequest (body : List Byte) : Option (Byte × List Byte) :=
  match body with
  | _ :: tag :: code :: extra => if code = RequestCode.status.byte then some (tag, extra) else none
  | _ => none

/-- A request frame is handled (R178, R179, R180). -/
def State.requestArrives (p : PortId) (body : List Byte) (s : State) : State :=
  match statusRequest body with
  | some (tag, extra) => s.statusArrives p tag extra
  | none => (s.modifyPort p (·.buffer body)).takeRequest p

/-- The keepalive restarts. The count does not count the second event of a tick already taken, and a loss
that this second event brings comes before the frame (R167, R186; log 8). -/
def State.restartKeepalive (p : PortId) (s : State) : State := (s.secondFirst p).modifyPort p PortUnit.goodFrame

/-- A frame is taken at its end (R174). -/
def State.frame (p : PortId) (r : Received) (s : State) : State :=
  match r with
  | .nothing => s
  | .discarded false => s.modifyPort p PortUnit.setRxError
  | .discarded true => (s.restartKeepalive p).modifyPort p PortUnit.setRxError
  | .request body => (s.restartKeepalive p).requestArrives p body

/-- FRAME_RECEIVED (R174), after a loss that a second event has already brought (R186; log 8). -/
def execFrameReceived (p : PortId) (line : List Bool) (s : State) : Out :=
  .next ((s.lossFirst p).frame p (receive line)).finish

/-! ### TRANSMISSION_START and TRANSMISSION_END (R175, R192) -/

/-- TRANSMISSION_START (R192). -/
def execTransmissionStart (p : PortId) (s : State) : Out := .next (s.modifyPort p PortUnit.startTx)

/-- The frame in transmission has been sent: it leaves its queue and the transmitter is free (R175, R192). -/
def PortUnit.endTx (u : PortUnit) : PortUnit :=
  match u.tx with
  | .free => u
  | .response => { u with responses := u.responses.tail, tx := .free, lineEnd := .flag }
  | .notice => { u with notices := u.notices.tail, tx := .free, lineEnd := .flag }

/-- The events of the last tick, still due, that the request waiting in the buffer must not overtake, if the
end of the transmission lets the port take it: they come before that end, while the transmitter is busy
(R170, R192; log 8). -/
def State.beforeEnd (p : PortId) (s : State) : State :=
  match s.ports[p].rx with
  | [] => s
  | body :: _ => if s.ports[p].endTx.canTake then firstOf p body s else s

/-- The end of a transmission, with the request taken at it (R175, R180). -/
def State.endTransmission (p : PortId) (s : State) : State :=
  ((s.beforeEnd p).modifyPort p PortUnit.endTx).takeRequest p

/-- TRANSMISSION_END (R175, R180). -/
def execTransmissionEnd (p : PortId) (s : State) : Out := .next (s.endTransmission p).finish

/-- The body of the frame in transmission (R192). -/
def PortUnit.sending (u : PortUnit) : Option (List Byte) :=
  match u.tx with
  | .free => none
  | .response => u.responses.head?.map Response.body
  | .notice => u.notices.head?.map QueuedNotice.body

/-- The bits of the frame in transmission, from its opening flag to its closing flag (R175). -/
def PortUnit.sendingBits (u : PortUnit) : Option (List Bool) := u.sending.map frameBits

/-! ### POWER_ON_RESET (R176, R175) -/

/-- A Port Unit after power-on reset: a frame in transmission is cut short by an abort (R175, R193). -/
def PortUnit.powerOn (u : PortUnit) : PortUnit :=
  { portReset with lineEnd := if u.tx = .free then u.lineEnd else .abort }

/-- What power-on reset sets, in any state, before the rail's rise. The power-good input keeps its level
(R75; log 6). -/
def State.powerOn (s : State) : State :=
  { State.resetValues with
    powerGood := s.powerGood
    ports := #v[s.ports[0].powerOn, s.ports[1].powerOn, s.ports[2].powerOn, s.ports[3].powerOn]
    choices := s.choices
    pending := s.pending }

/-- POWER_ON_RESET: the reset values, and the rise of R77 at the same event. -/
def execPowerOnReset (s : State) : Out := .next s.powerOn.driveReact.finish

end Sys2Proof.Machine
end

