-- ==== Sys2Proof/Machine/Dispatch.lean ====
section
/-!
DEFINITION. The command dispatcher: one arm per row of spec/opcode_table.json, in the table's order.
-/

namespace Sys2Proof.Machine

def exec (i : Instr) (s : State) : Host.Outcome State Fault Refusal :=
  match i with
  | .powerOnReset => Sys2Proof.Machine.execPowerOnReset s
  | .frameReceived p line => Sys2Proof.Machine.execFrameReceived p line s
  | .takeRequest p => Sys2Proof.Machine.execTakeRequest p s
  | .transmissionStart p => Sys2Proof.Machine.execTransmissionStart p s
  | .transmissionEnd p => Sys2Proof.Machine.execTransmissionEnd p s
  | .attach p tag role keepalive lossAction => Sys2Proof.Machine.execAttach p tag role keepalive lossAction s
  | .detach p tag => Sys2Proof.Machine.execDetach p tag s
  | .status p tag extra => Sys2Proof.Machine.execStatus p tag extra s
  | .resetPort p tag => Sys2Proof.Machine.execResetPort p tag s
  | .setFilter p tag filter enabled mode areaValue areaMask classValue classMask => Sys2Proof.Machine.execSetFilter p tag filter enabled mode areaValue areaMask classValue classMask s
  | .setNotices p tag setting => Sys2Proof.Machine.execSetNotices p tag setting s
  | .waitSettled p tag window timeout => Sys2Proof.Machine.execWaitSettled p tag window timeout s
  | .waitTimeout p => Sys2Proof.Machine.execWaitTimeout p s
  | .portLoss p => Sys2Proof.Machine.execPortLoss p s
  | .openWindow p tag row col height width level => Sys2Proof.Machine.execOpenWindow p tag row col height width level s
  | .closeWindow p tag window => Sys2Proof.Machine.execCloseWindow p tag window s
  | .moveWindow p tag window row col level => Sys2Proof.Machine.execMoveWindow p tag window row col level s
  | .setWindow p tag window visible deferred writers => Sys2Proof.Machine.execSetWindow p tag window visible deferred writers s
  | .writeCells p tag window row col cells => Sys2Proof.Machine.execWriteCells p tag window row col cells s
  | .fillCells p tag window row col height width glyph attr => Sys2Proof.Machine.execFillCells p tag window row col height width glyph attr s
  | .readCells p tag window row col count => Sys2Proof.Machine.execReadCells p tag window row col count s
  | .flush p tag window => Sys2Proof.Machine.execFlush p tag window s
  | .jobStart => Sys2Proof.Machine.execJobStart s
  | .jobCompletion e => Sys2Proof.Machine.execJobCompletion e s
  | .fullRefreshExpiry => Sys2Proof.Machine.execFullRefreshExpiry s
  | .fullRefresh p tag selector window => Sys2Proof.Machine.execFullRefresh p tag selector window s
  | .setRefreshPeriod p tag minutes => Sys2Proof.Machine.execSetRefreshPeriod p tag minutes s
  | .powerGoodAsserted => Sys2Proof.Machine.execPowerGoodAsserted s
  | .powerGoodLost => Sys2Proof.Machine.execPowerGoodLost s
  | .riseTimerExpiry => Sys2Proof.Machine.execRiseTimerExpiry s
  | .holdTimerExpiry => Sys2Proof.Machine.execHoldTimerExpiry s
  | .fallTimerExpiry => Sys2Proof.Machine.execFallTimerExpiry s
  | .retryTimerExpiry => Sys2Proof.Machine.execRetryTimerExpiry s
  | .setHold p tag seconds => Sys2Proof.Machine.execSetHold p tag seconds s
  | .clearDriveFault p tag => Sys2Proof.Machine.execClearDriveFault p tag s
  | .raiseAlert p tag code area cls severity lamp tone message => Sys2Proof.Machine.execRaiseAlert p tag code area cls severity lamp tone message s
  | .clearAlert p tag code => Sys2Proof.Machine.execClearAlert p tag code s
  | .ackAlert p tag source code => Sys2Proof.Machine.execAckAlert p tag source code s
  | .shelveAlert p tag source code seconds => Sys2Proof.Machine.execShelveAlert p tag source code seconds s
  | .unshelveAlert p tag source code => Sys2Proof.Machine.execUnshelveAlert p tag source code s
  | .shelvingExpiry => Sys2Proof.Machine.execShelvingExpiry s
  | .listAlerts p tag start => Sys2Proof.Machine.execListAlerts p tag start s
  | .setBanner p tag height => Sys2Proof.Machine.execSetBanner p tag height s
  | .periodEnd => Sys2Proof.Machine.execPeriodEnd s
  | .setTone p tag entry primary secondaryPresent secondary mix amplitude onTicks offTicks repeats => Sys2Proof.Machine.execSetTone p tag entry primary secondaryPresent secondary mix amplitude onTicks offTicks repeats s
  | .chime p tag tone => Sys2Proof.Machine.execChime p tag tone s
  | .ackPress => Sys2Proof.Machine.execAckPress s
  | .ackHold => Sys2Proof.Machine.execAckHold s
  | .ackRelease => Sys2Proof.Machine.execAckRelease s
  | .silencePress => Sys2Proof.Machine.execSilencePress s
  | .silenceRelease => Sys2Proof.Machine.execSilenceRelease s
  | .testPress => Sys2Proof.Machine.execTestPress s
  | .testRelease => Sys2Proof.Machine.execTestRelease s
  | .panelTest p tag setting => Sys2Proof.Machine.execPanelTest p tag setting s
  | .blank p tag setting => Sys2Proof.Machine.execBlank p tag setting s
  | .tickEvent ack silence test => Sys2Proof.Machine.execTickEvent ack silence test s
  | .secondEvent => Sys2Proof.Machine.execSecondEvent s
  | .blinkEvent => Sys2Proof.Machine.execBlinkEvent s
  | .setTime p tag seconds => Sys2Proof.Machine.execSetTime p tag seconds s

end Sys2Proof.Machine
end

