-- ==== Sys2Proof/Safety.lean ====
section
/-!
DEFINITION. The laws the spec says the state keeps, as decidable conditions, block by block. A step keeps
each of them; the statements are in Certificates/Slice0/Obligations.lean.
-/

namespace Sys2Proof.Machine

/-! ### Time Base -/

/-- The blink phase is ON exactly while the tick is 0 to 31 (R162), but for a blink event of this very
moment that is still to be handed on (log 2). -/
def TimeBase.ok (t : TimeBase) : Bool := xor t.phase t.blinkDue == decide (t.tick.val < 32)

/-! ### Windows (R16, R18, R19) -/

/-- A window keeps the ranges of R16. -/
def Window.ok (w : Window) : Bool :=
  decide (1 ≤ w.height) && decide (1 ≤ w.width) && w.rect.inPanel && decide (w.level ≤ 3)
    && decide (w.working.length = w.area)
    && (match w.published with
      | none => true
      | some c => decide (c.length = w.area))
    && !w.writers.getLsbD w.owner.val

/-- Every OPEN window keeps the ranges of R16. -/
def State.windowsOk (s : State) : Bool :=
  s.windows.toList.all fun e => match e with
    | none => true
    | some w => w.ok

/-- No two OPEN windows of one level share a cell (R18). -/
def State.levelsOk (s : State) : Bool :=
  windowIds.all fun i => match s.windows[i] with
    | none => true
    | some w => !s.overlaps (some i) w.level w.rect

/-- The OPEN windows consume at most the pool (R19). -/
def State.poolOk (s : State) : Bool := decide (consumed s.windows ≤ 1024)

/-! ### Alert list (R88, R91) -/

/-- A record keeps the ranges of R88. -/
def Alert.ok (a : Alert) : Bool :=
  (match a.source with
    | .system => decide (a.code.toNat ≤ 5)
    | .port _ => true)
  && decide (1 ≤ a.occurrences ∧ a.occurrences ≤ 255) && decide (a.message.length ≤ 32)

/-- At most 32 port records; no two records share source and code (R91). -/
def State.alertsOk (s : State) : Bool :=
  decide (portCount s.alerts ≤ 32) && decide (s.alerts.map fun a => (a.source, a.code)).Nodup
    && s.alerts.all Alert.ok

/-! ### Port Units (R176, R178, R179, R183, R199) -/

/-- The keepalive count is present exactly while the port is ATTACHED with a keepalive of 1 to 60. -/
def PortUnit.keepaliveOk (u : PortUnit) : Bool :=
  decide (u.keepalive ≤ 60)
    && decide (u.keepaliveCount.isSome = (decide (u.state = .attached) && decide (u.keepalive ≠ 0)))

/-- The buffer and the queues keep their capacities, and a frame in transmission is in its queue. -/
def PortUnit.queuesOk (u : PortUnit) : Bool :=
  decide (u.rx.length ≤ 2) && decide ((u.responses.filter (·.exec)).length ≤ 1)
    && decide (u.statusResponses ≤ 3) && decide (u.notices.length ≤ 8)
    && (match u.tx with
      | .free => u.responses.isEmpty && u.notices.isEmpty
      | .response => !u.responses.isEmpty
      | .notice => !u.notices.isEmpty)

/-- A WAITING port is ATTACHED, with a timeout of 1 to 60, and no execution response is queued. -/
def PortUnit.waitOk (u : PortUnit) : Bool :=
  match u.wait with
  | none => true
  | some w => decide (u.state = .attached) && decide (1 ≤ w.timeout ∧ w.timeout ≤ 60) && !u.hasExecResponse

/-- Every buffered body is that of a request frame that is not STATUS (R173, R174, R178). -/
def PortUnit.bufferOk (u : PortUnit) : Bool :=
  u.rx.all fun b => decide (3 ≤ b.length ∧ b.length ≤ 112) && b.head? == some 1
    && decide (b[2]? ≠ some RequestCode.status.byte)

def PortUnit.ok (u : PortUnit) : Bool := u.keepaliveOk && u.queuesOk && u.waitOk && u.bufferOk

/-- Every Port Unit keeps its laws. -/
def State.portsOk (s : State) : Bool := s.ports.toList.all PortUnit.ok

/-- The port that holds the SUPERVISOR role is ATTACHED (R183). -/
def State.supervisorOk (s : State) : Bool :=
  match s.supervisor with
  | none => true
  | some p => decide (s.ports[p].state = .attached)

/-- A wait is on an OPEN window (R189, R190). -/
def State.waitsOk (s : State) : Bool :=
  s.ports.toList.all fun u => match u.wait with
    | none => true
    | some w => s.windows[w.window].isSome

/-! ### Drive (R46, R47, R51, R52) -/

/-- The job of an engine keeps R51 and R52, and its tile is DRIVING. -/
def State.jobOk (s : State) (e : EngineId) : Bool :=
  match s.engines[e] with
  | none => true
  | some j => decide (j.frames ≤ j.waveform.length) && decide (s.tiles[j.tile].state = .driving)

/-- Two engines never drive one tile. -/
def State.jobsApart (s : State) : Bool :=
  decide ((s.engines.toList.filterMap fun e => e.map Job.tile).Nodup)

/-- A DRIVING tile is held by an engine's job. -/
def State.drivenOk (s : State) : Bool :=
  tileIds.all fun n => decide (s.tiles[n].state ≠ .driving) ||
    s.engines.toList.any fun e => match e with
      | none => false
      | some j => decide (j.tile = n)

/-- Engines are busy only while the rail is ON (R61, R79, R83). -/
def State.busyOk (s : State) : Bool := s.railOn || !s.anyBusy

/-- The partial counts stay within 0 to 16 (R53). A PARTIAL job's tile has fewer. -/
def State.countsOk (s : State) : Bool :=
  (tileIds.all fun n => decide (s.tiles[n].partialCount ≤ 16)) &&
    s.engines.toList.all fun e => match e with
      | none => true
      | some j => decide (j.waveform = .fullDrive) || decide (s.tiles[j.tile].partialCount < 16)

/-- Engines, jobs and tile records agree. -/
def State.driveOk (s : State) : Bool :=
  (engineIds.all s.jobOk) && s.jobsApart && s.drivenOk && s.busyOk && s.countsOk

/-- A tile record says what R47 gives its state: SETTLED, no stale cell and no FULL drive due; PENDING, a
stale cell or a FULL drive due; UNKNOWN, panel values unknown. -/
def State.tileOk (s : State) (n : TileId) : Bool :=
  match s.tiles[n].state with
  | .settled => !tileStale s.view s.panel n && !s.tiles[n].fullDue
  | .pending _ => tileStale s.view s.panel n || s.tiles[n].fullDue
  | .unknown _ => decide (s.panel[n] = unknownCells)
  | .driving => true

def State.tilesOk (s : State) : Bool := tileIds.all s.tileOk

/-! ### Rail (R74) -/

/-- The rail state, its timer and the attempt count keep R74, R76 and R79. -/
def Rail.ok (r : Rail) : Bool :=
  decide (1 ≤ r.holdSetting ∧ r.holdSetting ≤ 60) &&
  match r.state with
  | .off => decide (r.attempts = 0)
  | .rising n => decide (n ≤ 4) && decide (r.attempts < 3)
  | .on none => decide (r.attempts = 0)
  | .on (some n) => decide (r.attempts = 0) && decide (n ≤ 3840)
  | .falling n => decide (n ≤ 2) && decide (r.attempts = 0)
  | .fault none => decide (r.attempts = 3)
  | .fault (some n) => decide (n ≤ 320) && decide (1 ≤ r.attempts ∧ r.attempts < 3)

/-- The rail and the arbiter have answered the scheduler's conditions: OFF means that no tile waits
(R77); ON means that no tile waits beside a free engine (R61), and the hold timer runs exactly while no
tile waits and no engine is busy (R81). -/
def State.railOk (s : State) : Bool :=
  s.rail.ok &&
  match s.rail.state with
  | .off => !s.anyWaiting
  | .on h => (s.freeEngine.isNone || !s.anyWaiting)
      && decide (h.isSome = !(s.anyWaiting || s.anyBusy))
  | _ => true

/-- The full-refresh period and its count (R64). -/
def State.refreshOk (s : State) : Bool :=
  decide (s.refreshPeriod ≤ 240) && decide (s.refreshCount ≤ s.refreshPeriod * 60)

/-- A full-refresh expiry that one second event has brought is taken before the next second event (R64). -/
def State.secondOk (s : State) : Bool := !s.time.secondDue || !s.refreshDue

/-! ### Sounder (R133, R138, R141, R145) -/

def ToneEntry.ok (t : ToneEntry) : Bool :=
  decide (t.amplitude ≤ 15) && decide (1 ≤ t.onTicks ∧ t.onTicks ≤ 255) && decide (t.offTicks ≤ 255)
    && decide (t.repeats ≤ 255)

def State.tonesOk (s : State) : Bool := s.tones.toList.all ToneEntry.ok

/-- At most 4 chimes, of tone 1 to tone 7 (R145). -/
def State.chimesOk (s : State) : Bool :=
  decide (s.chimes.length ≤ 4) && s.chimes.all fun t => decide (t.val ≠ 0)

/-- The pattern plays the source that applies and its entry, and is absent when none does (R138, R141). -/
def State.soundOk (s : State) : Bool :=
  decide ((s.pattern.map fun pt => (pt.source, pt.entry)) = s.selectSource)

/-! ### Keys (R150) -/

def KeyRecord.ok (k : KeyRecord) : Bool := decide (k.debounce ≤ 4)

def Keys.ok (k : Keys) : Bool :=
  k.ack.ok && k.silence.ok && k.test.ok && decide (k.holdTicks ≤ 128)
    && (k.ack.held || decide (k.holdTicks = 0)) && (!k.holdDue || decide (k.holdTicks = 128))

/-- The part's band height is 1 or 2 (R120). -/
def State.bandOk (s : State) : Bool := decide (s.bandHeight = 1 ∨ s.bandHeight = 2)

/-- Every law together. -/
def State.ok (s : State) : Bool :=
  s.time.ok && s.windowsOk && s.levelsOk && s.poolOk && s.alertsOk && s.portsOk && s.supervisorOk
    && s.waitsOk && s.driveOk && s.tilesOk && s.railOk && s.refreshOk && s.secondOk && s.tonesOk && s.chimesOk
    && s.soundOk && s.keys.ok && s.bandOk

/-! ### Terms the statements use -/

/-- Port `p` is ATTACHED and can take a request (R180, R181). -/
abbrev State.serves (s : State) (p : PortId) : Prop := s.ports[p].state = .attached ∧ s.ports[p].canTake = true

/-- A tile that begins to wait would bring the rail to RISING and, at the same event, to ON (R77). -/
abbrev State.risesAtOnce (s : State) : Prop := s.rail.state = .off ∧ s.powerGood = true

/-- The execution response queued at port `p` (R180, R207), and nothing else. -/
def State.answered (s : State) (p : PortId) (tag : Byte) (rc : RequestCode) (st : Status)
    (results : List Byte) : State :=
  s.modifyPort p fun u => { u with responses := u.responses ++ [⟨true, tag, rc.byte, st, results⟩] }

/-- `v` is `u`, or `u` with its wait ended and the wait's response queued: OK, or, of a closed window,
WINDOW_GONE (R190). -/
def PortUnit.endsWait (closed : WindowId → Prop) (u v : PortUnit) : Prop :=
  v = u ∨ ∃ w st, u.wait = some w ∧ (st = .ok ∨ (st = .windowGone ∧ closed w.window)) ∧
    v = { u with
      wait := none
      responses := u.responses ++ [⟨true, w.tag, RequestCode.waitSettled.byte, st, []⟩] }

/-- The Port Unit of port `q` after it has taken these notices, in this order (R199). -/
def PortUnit.noticed (q : PortId) (ns : List Notice) (u : PortUnit) : PortUnit :=
  ns.foldl (fun v n => v.takeNotice q n) u

/-- Every Port Unit has taken these notices and no other, may have ended its wait, and is as it was in
everything else. -/
def State.handed (s t : State) (ns : List Notice) : Prop :=
  ∀ q : PortId, (s.ports[q].noticed q ns).endsWait (fun i => t.windows[i] = none) t.ports[q]

/-- So, and then every free transmitter with a frame waiting has begun one (R192). -/
def State.told (s t : State) (ns : List Notice) : Prop := ∃ u, s.handed u ns ∧ t = u.finish

/-- The rail reaching ON clears DRIVE_FAULT, and no other record (R78, R86): every other record stands. -/
def State.keepsRecords (s t : State) : Prop :=
  ∀ src code, (src, code) ≠ (Source.system, driveFaultCode) → t.record src code = s.record src code

/-- What a clear makes of the record under a source and code (R100): ringback, removal, or nothing. -/
def afterClear (now : Stamp) : Option Alert → Option Alert
  | none => none
  | some a => match a.state with
    | .activeUnack => some { a with state := .clearedUnack now }
    | .activeAck _ _ => none
    | .clearedUnack _ => some a

/-- What an acknowledgement makes of the record under a source and code (R103). -/
def afterAck (by_ : Acker) (now : Stamp) : Option Alert → Option Alert
  | none => none
  | some a => match a.state with
    | .activeUnack => some { a with state := .activeAck by_ now }
    | .activeAck _ _ => some a
    | .clearedUnack _ => none

/-- What a raise makes of the record under a source and code (R95, R97 to R99). -/
def afterRaise (now : Stamp) (src : Source) (code : Byte) (x : RaiseArgs) : Option Alert → Alert
  | none => ⟨src, code, x.area, x.cls, x.severity, x.lamp, x.tone, x.message, .activeUnack, false, none, 1, now⟩
  | some a =>
    let escalates := a.severity.rank < x.severity.rank
    let anew := escalates ∨ a.state.stage = .clearedUnack
    { a with
      area := x.area, cls := x.cls, lamp := x.lamp, tone := x.tone, message := x.message
      occurrences := min 255 (a.occurrences + 1)
      severity := if escalates then x.severity else a.severity
      state := if anew then .activeUnack else a.state
      silenced := if anew then false else a.silenced }

/-- The notice of a change that leaves the record `a` as it is here (R113). -/
def keptNotice (kind : NoticeKind) (now : Stamp) (a : Alert) : Notice :=
  ⟨kind, a.source, a.code, a.area, a.cls, a.severity, a.state.stage, false, a.state.ackBy, now⟩

/-- The notice of a change that removed the record `a` (R101, R113). -/
def removedNotice (kind : NoticeKind) (now : Stamp) (by_ : Acker) (a : Alert) : Notice :=
  ⟨kind, a.source, a.code, a.area, a.cls, a.severity, a.state.stage, true, some by_, now⟩

/-- The notice of a raise, by the record it finds (R95, R97, R98, R113). -/
def raiseNotice (now : Stamp) (src : Source) (code : Byte) (x : RaiseArgs) (old : Option Alert) : Notice :=
  keptNotice (match old with
    | none => .raised
    | some b => if b.severity.rank < x.severity.rank then .escalated else .reoccurred) now
    (afterRaise now src code x old)

/-- The notices of a clear, by the record it finds (R100, R101, R113). -/
def clearNotices (now : Stamp) : Option Alert → List Notice
  | none => []
  | some a => match a.state with
    | .activeUnack => [keptNotice .cleared now { a with state := .clearedUnack now }]
    | .activeAck by_ _ => [removedNotice .cleared now by_ a]
    | .clearedUnack _ => []

/-- The notices of an acknowledgement, by the record it finds (R101, R103, R113). -/
def ackNotices (by_ : Acker) (now : Stamp) : Option Alert → List Notice
  | none => []
  | some a => match a.state with
    | .activeUnack => [keptNotice .acknowledged now { a with state := .activeAck by_ now }]
    | .activeAck _ _ => []
    | .clearedUnack _ => [removedNotice .acknowledged now by_ a]

/-- The notices of the shelving's end that a comparison with the seconds brings (R109, R113). -/
def expiryNotices (now : Stamp) (a : Alert) : List Notice :=
  match a.shelved with
  | none => []
  | some e => if e.toNat ≤ now.seconds.toNat then [keptNotice .unshelved now { a with shelved := none }] else []

/-- Every busy engine goes on with its job (R58). -/
def State.jobsStand (s t : State) : Prop :=
  ∀ (d : EngineId) (j : Job), s.engines[d] = some j → t.engines[d] = some j

/-- The states of the rail that an event of another block can leave (R77, R78, R81): from OFF it may rise, in ON
its hold timer may start or stop, in every other state it stands. Which of these it leaves, and the timer's
value, `State.driveFollows` says. -/
def State.railFollows (s t : State) : Prop :=
  match s.rail.state with
  | .off => t.rail = s.rail ∨ if s.powerGood = true
      then ∃ h, t.rail = ⟨.on h, 0, s.rail.holdSetting⟩
      else t.rail = ⟨.rising 4, s.rail.attempts, s.rail.holdSetting⟩
  | .on _ => ∃ h, t.rail = { s.rail with state := .on h }
  | _ => t.rail = s.rail

/-- The rail has gone from OFF to RISING and, at the same event, to ON (R77). -/
abbrev State.risesTo (s t : State) : Prop := s.risesAtOnce ∧ t.rail ≠ s.rail

/-- The chime queue and the pattern are those of one choice of the source, made in `s` with the records of
`t` (R139, R140). -/
def State.hears (s t : State) : Prop :=
  let c := ({ s with alerts := t.alerts } : State).chooseSource
  t.chimes = c.chimes ∧ t.pattern = c.pattern

/-- `t` is `s` but for what composition and the drive do after a change: tile states, engines that were free,
the rail and the waits that end; and, where the rail rises and reaches ON at that event, the clearing of
DRIVE_FAULT with its notice and the sounder's choice after it. -/
def State.drawnTo (s t : State) : Prop :=
  t = { s with
    tiles := t.tiles, engines := t.engines, rail := t.rail, alerts := t.alerts, chimes := t.chimes,
    pattern := t.pattern, ports := t.ports } ∧
  (∀ n : TileId, t.tiles[n].partialCount = s.tiles[n].partialCount ∧
    t.tiles[n].fullDue = s.tiles[n].fullDue) ∧
  s.jobsStand t ∧ s.railFollows t ∧ s.keepsRecords t ∧
  if s.risesTo t then
    t.record .system driveFaultCode = afterClear s.now (s.record .system driveFaultCode) ∧
    s.handed t (clearNotices s.now (s.record .system driveFaultCode))
  else t.alerts = s.alerts ∧ t.chimes = s.chimes ∧ t.pattern = s.pattern ∧ s.handed t []

/-- So, with the source that the sounder chooses after it (R139), and then every free transmitter with a
frame waiting has begun one (R192). -/
def State.drawnFrom (s t : State) : Prop :=
  ∃ u, s.drawnTo u ∧ (s.soundOk = true → s.hears u) ∧ t = u.finish

/-- The notices are none, or those of a clearing of DRIVE_FAULT. -/
def faultCleared (now : Stamp) (ns : List Notice) : Prop :=
  ns = [] ∨ ∃ a : Alert, a.source = .system ∧ a.code = driveFaultCode ∧ ns = clearNotices now (some a)

/-- The Port Units have taken these notices, in this order, and no other but, where the rail reaches ON at
the event, that of DRIVE_FAULT's clearing, before or after them. -/
def State.hands (s t : State) (ns : List Notice) : Prop :=
  ∃ ms, (s.handed t (ns ++ ms) ∨ s.handed t (ms ++ ns)) ∧ faultCleared s.now ms ∧ (¬s.risesTo t → ms = [])

/-- `t` is `s` but for what a list event that hands these notices, the sounder's choice after it and the
drive's answer to it can change. -/
def State.listedTo (s : State) (ns : List Notice) (t : State) : Prop :=
  t = { s with
    tiles := t.tiles, engines := t.engines, rail := t.rail, alerts := t.alerts, chimes := t.chimes,
    pattern := t.pattern, ports := t.ports } ∧
  (∀ n : TileId, t.tiles[n].partialCount = s.tiles[n].partialCount ∧
    t.tiles[n].fullDue = s.tiles[n].fullDue) ∧
  s.jobsStand t ∧ s.railFollows t ∧ s.hands t ns

/-- So, with the source that the sounder chooses after it (R139, R140), and then every free transmitter with
a frame waiting has begun one (R192). `b` is the state the event found, with a pattern that plays its source. -/
def State.listedFrom (s b : State) (ns : List Notice) (t : State) : Prop :=
  ∃ u, s.listedTo ns u ∧ (b.soundOk = true → s.hears u) ∧ t = u.finish

/-- Every record stands but those named, and, where the rail reaches ON at the event, DRIVE_FAULT. -/
def State.keepsRecordsBut (s t : State) (named : List (Source × Byte)) : Prop :=
  ∀ src code, (src, code) ∉ named → ((src, code) ≠ (Source.system, driveFaultCode) ∨ ¬s.risesAtOnce) →
    t.record src code = s.record src code

/-- The record under a source and code is what the event makes of it, unless it is DRIVE_FAULT and the
rail reaches ON at the event. -/
def State.makes (s t : State) (src : Source) (code : Byte) (a : Option Alert) : Prop :=
  ((src, code) ≠ (Source.system, driveFaultCode) ∨ ¬s.risesAtOnce) → t.record src code = a

/-- LIST_OVERFLOW is cleared at an event that removed port records and left 28 or fewer (R111). -/
def State.overflowFollows (s t : State) : Prop :=
  t.record .system listOverflowCode =
    if portCount t.alerts < portCount s.alerts ∧ portCount t.alerts ≤ 28
    then afterClear s.now (s.record .system listOverflowCode) else s.record .system listOverflowCode

/-- The notices of LIST_OVERFLOW's clearing at an event that removed port records and left 28 or fewer (R111). -/
def State.overflowNotices (s t : State) : List Notice :=
  if portCount t.alerts < portCount s.alerts ∧ portCount t.alerts ≤ 28
  then clearNotices s.now (s.record .system listOverflowCode) else []

/-- The notices of clearing every record of port `p`, in list order, and of what LIST_OVERFLOW does after it
(R111, R116). -/
def State.portNotices (s t : State) (p : PortId) : List Notice :=
  ((s.alerts.filter fun a => decide (a.source = .port p)).flatMap fun a => clearNotices s.now (some a))
    ++ s.overflowNotices t

/-- The waits on the windows of port `p`, all closed at the event, have ended with WINDOW_GONE; or with OK,
where an earlier change of the same event, the end of a remote test, has settled the window (R42, R190). -/
def State.waitsGone (s t : State) (p : PortId) : Prop :=
  ∀ (q : PortId) (v : Wait) (w : Window), q ≠ p → s.ports[q].wait = some v →
    s.windows[v.window] = some w → w.owner = p → t.ports[q].wait = none ∧
    ∃ st, (st = .windowGone ∨ (st = .ok ∧ s.supervisor = some p ∧ s.remoteTest = true)) ∧
      t.ports[q].responses = s.ports[q].responses ++ [⟨true, v.tag, RequestCode.waitSettled.byte, st, []⟩]

/-- The execution response that stands last in the response queue of port `p` is this one. -/
def State.answers (s t : State) (p : PortId) (tag : Byte) (rc : RequestCode) (st : Status)
    (results : List Byte) : Prop :=
  t.ports[p].responses = s.ports[p].responses ++ [⟨true, tag, rc.byte, st, results⟩]

/-- The requests that only the supervisor may make (R181). -/
def supervisorOnly : Instr → Bool
  | .fullRefresh .. | .setRefreshPeriod .. | .setHold .. | .clearDriveFault .. | .shelveAlert ..
  | .unshelveAlert .. | .setBanner .. | .setTone .. | .panelTest .. | .blank .. | .setTime .. => true
  | _ => false

/-- The request's body has a length that its code allows (R205). -/
def lengthAllowed : Instr → Bool
  | .writeCells _ _ _ _ _ cells => cellsLengthOk cells
  | .raiseAlert _ _ _ _ _ _ _ _ message => messageLengthOk message
  | .status _ _ extra => extra.isEmpty
  | _ => true

/-- The tile's record is as it was, unless an engine has begun to drive it. -/
def State.tileKept (s t : State) (n : TileId) : Prop :=
  t.tiles[n] = s.tiles[n] ∨ t.tiles[n] = { s.tiles[n] with state := .driving }

/-- No waiting tile stands beside a free engine (R61). -/
def State.engineTaken (s : State) : Prop := (∀ e : EngineId, s.engines[e] ≠ none) ∨ s.anyWaiting = false

/-- The hold timer after an event that leaves the rail ON, by its value before the event: none while a tile waits
or an engine is busy, else a running one goes on, and one that starts has its full length (R76, R81). -/
def State.holdAfter (s : State) (h : Option Nat) : Option Nat :=
  if s.anyWaiting = true ∨ s.anyBusy = true then none else some (h.getD (s.rail.holdSetting * 64))

/-! ### The waits (R50, R72, R190) -/

/-- The reports that turn the tile records `before` into `after` end the waits on the window (R72): a tile its
rectangle touches becomes SETTLED, and every tile it touches is then SETTLED. -/
def Window.settles (w : Window) (before after : Vector TileRec 40) : Prop :=
  (∃ n : TileId, w.rect.touches n = true ∧ before[n].state ≠ .settled ∧ after[n].state = .settled) ∧
  ∀ n : TileId, w.rect.touches n = true → after[n].state = .settled

/-- Of the waits on windows that are OPEN after the event, exactly those for which `ends` holds have ended. -/
def State.waitsFollow (s t : State) (ends : WindowId → Window → Prop) : Prop :=
  ∀ (q : PortId) (v : Wait) (w : Window), s.ports[q].wait = some v → t.windows[v.window] = some w →
    (t.ports[q].wait = none ∧ ends v.window w) ∨ (t.ports[q].wait = some v ∧ ¬ends v.window w)

/-! ### The arbiter (R61 to R63) -/

/-- Tile `n`, waiting since `a`, is the one chosen: the lowest class, then the oldest stamp, then the lowest
number (R62, R63). -/
def State.nextTile (s : State) (n : TileId) (a : Stamp) : Prop :=
  s.tiles[n].since = some a ∧ ∀ (m : TileId) (b : Stamp), m ≠ n → s.tiles[m].since = some b →
    s.tileClass n < s.tileClass m ∨ (s.tileClass n = s.tileClass m ∧
      (a.before b = true ∨ (b.before a = false ∧ n < m)))

/-- The job a free engine starts on tile `n`, waiting since `a`: FULL on an UNKNOWN tile, at a partial count
of 16, or where a FULL drive is due; else PARTIAL (R52 to R54). -/
def State.jobFor (s : State) (n : TileId) (a : Stamp) : Job :=
  if s.tiles[n].state = .unknown a ∨ s.tiles[n].partialCount = 16 ∨ s.tiles[n].fullDue = true
  then ⟨n, .fullDrive, s.view.tile n, 24⟩ else ⟨n, .partialDrive, s.view.tile n, 8⟩

/-- One handing: the first free engine has taken the chosen tile (R54, R63). -/
def State.handedTile (s t : State) : Prop :=
  ∃ (e : EngineId) (n : TileId) (a : Stamp), s.engines[e] = none ∧ (∀ d < e, s.engines[d] ≠ none) ∧
    s.nextTile n a ∧ t = { s with
      engines := s.engines.set e (some (s.jobFor n a))
      tiles := s.tiles.set n { s.tiles[n] with state := .driving } }

/-- The engines and tiles of `t` are those that handings make of `s`, as long as a tile waits and an engine
is free (R61). -/
def State.arbitered (s t : State) : Prop :=
  ∃ v, Relation.ReflTransGen State.handedTile s v ∧ v.engineTaken ∧ t.engines = v.engines ∧ t.tiles = v.tiles

/-- The tile records after one set of stale-tile reports (R12, R49): those of the tiles for which `touched`
holds and whose composed values differ between `s` and `t`. -/
def State.reportedTiles (s t : State) (touched : TileId → Bool) : Vector TileRec 40 :=
  Vector.ofFn fun n : TileId => if touched n = true ∧ s.view.tile n ≠ t.view.tile n
    then s.tiles[n].report s.now (tileStale t.view s.panel n) else s.tiles[n]

/-- The tiles of rows 0 and 1, which a banner event re-evaluates (R11, R127). -/
def bandRows (n : TileId) : Bool := decide (tileRow n < 2)

/-- The engines, the tiles and the rail stand. -/
def State.driveStands (s t : State) : Prop := t.engines = s.engines ∧ t.tiles = s.tiles ∧ t.rail = s.rail

/-- The engines, the tiles and the rail of `t` are what the drive's answer to an event makes of those of `s`. While
the rail is ON the arbiter acts and the hold timer follows. From OFF a waiting tile brings the rise; where the rail
reaches ON at the event, DRIVE_FAULT's clearing reports the banner's tiles before the arbiter acts. In every other
case they stand (R61, R76 to R78, R81). -/
def State.driveFollows (s t : State) : Prop :=
  match s.rail.state with
  | .on h => s.arbitered t ∧ t.rail = { s.rail with state := .on (t.holdAfter h) }
  | .off =>
    if s.anyWaiting = false then s.driveStands t
    else if s.powerGood = true then
      ({ t with
        engines := s.engines
        tiles := s.reportedTiles t bandRows } : State).arbitered t ∧
      t.rail = ⟨.on (t.holdAfter none), 0, s.rail.holdSetting⟩
    else t.engines = s.engines ∧ t.tiles = s.tiles ∧ t.rail = ⟨.rising 4, s.rail.attempts, s.rail.holdSetting⟩
  | _ => s.driveStands t

/-- `t` with these records and tile records of the event, and the rail and the engines of `s`. -/
def State.undriven (s t : State) (alerts : List Alert) (tiles : Vector TileRec 40) : State :=
  { t with
    alerts := alerts
    rail := s.rail
    engines := s.engines
    tiles := tiles }

/-- The wait on the window ends by the event's reports, or by those that DRIVE_FAULT's clearing makes after them
where the rail reaches ON at the event (R72, R78). -/
def State.reportsEnd (s t : State) (alerts : List Alert) (tiles : Vector TileRec 40) (w : Window) : Prop :=
  w.settles s.tiles tiles ∨
    (s.risesTo t ∧ w.settles tiles ((s.undriven t alerts tiles).reportedTiles t bandRows))

/-- From these records and tile records of the event: the drive's answer, and the waits that its reports end. -/
def State.drives (s t : State) (alerts : List Alert) (tiles : Vector TileRec 40) : Prop :=
  (s.undriven t alerts tiles).driveFollows t ∧ s.waitsFollow t fun _ w => s.reportsEnd t alerts tiles w

/-- The tiles for which `touched` holds are reported, the others stand, the waits that this settles end, and the
drive answers (R12, R49, R72). -/
def State.redrawn (s t : State) (touched : TileId → Bool) : Prop :=
  s.drives t s.alerts (s.reportedTiles { t with alerts := s.alerts } touched)

/-- No tile is reported and no wait on an OPEN window ends, and the drive has nothing to answer. -/
def State.undrawn (s t : State) : Prop := s.driveStands t ∧ s.waitsFollow t fun _ _ => False

/-- At a change of the list, to the records `l`, the banner's tiles are reported, the waits that this settles end,
and the drive answers (R72, R118, R127). `l` is the list of `t`, but where the rail reaches ON at the event and
DRIVE_FAULT is cleared after the change (R78). -/
def State.relisted (s t : State) : Prop :=
  ∃ l, t.alerts = (if s.risesTo t
      then (({ s with alerts := l } : State).clear .system driveFaultCode).alerts else l) ∧
    if l = s.alerts then s.undrawn t
    else s.drives t l (s.reportedTiles { t with alerts := l } bandRows)

/-- The release of the SUPERVISOR role by port `p`, if it holds it: a remote test that shows ends, all tiles are
reported, and the drive answers (R157, R158, R183). -/
def State.releases (s t : State) (p : PortId) : Prop :=
  let u : State := { s with
    supervisor := if s.supervisor = some p then none else s.supervisor
    remoteTest := if s.supervisor = some p then false else s.remoteTest }
  if s.supervisor = some p ∧ s.remoteTest = true ∧ s.keys.test.held = false
  then u.drawnTo t ∧ s.redrawn t fun _ => true else t = u

/-- The closure of the windows of port `p`, as one composition event: the waits on them end with WINDOW_GONE, the
tiles they touch are reported, and the drive answers; where there are none, nothing happens (R42). -/
def State.closes (s t : State) (p : PortId) : Prop :=
  let goes := fun w : Window => decide (w.owner = p)
  if s.windows.toList.any (fun e => e.any goes) = true then
    (∀ i : WindowId, t.windows[i] = s.windows[i].filter fun w => !goes w) ∧
    (∀ (q : PortId) (v : Wait) (w : Window), s.ports[q].wait = some v → s.windows[v.window] = some w →
      w.owner = p → t.ports[q].wait = none ∧ t.ports[q].responses =
        s.ports[q].responses ++ [⟨true, v.tag, RequestCode.waitSettled.byte, .windowGone, []⟩]) ∧
    ({ s with windows := t.windows } : State).drawnTo t ∧
    s.redrawn t fun n => s.windows.toList.any fun e => e.any fun w => goes w && w.rect.touches n
  else t = s

/-- The rail has gone to RISING or, with power-good asserted, on to ON at that event: attempt count 0,
DRIVE_FAULT cleared and its notice handed, the banner's tiles reported and the waits that this settles ended, free
engines handed, and the hold timer started where no tile waits and no engine is busy (R72, R77, R78, R81). -/
def State.risenTo (s t : State) : Prop :=
  if s.powerGood = true then
    t.rail = ⟨.on (t.holdAfter none), 0, s.rail.holdSetting⟩ ∧ s.jobsStand t ∧
    t.record .system driveFaultCode = afterClear s.now (s.record .system driveFaultCode) ∧
    s.keepsRecords t ∧ s.handed t (clearNotices s.now (s.record .system driveFaultCode)) ∧
    ({ t with
      engines := s.engines
      tiles := s.reportedTiles t bandRows } : State).arbitered t ∧
    (s.waitsFollow t fun _ w => w.settles s.tiles (s.reportedTiles t bandRows)) ∧
    (t.alerts = s.alerts → t.chimes = s.chimes ∧ t.pattern = s.pattern) ∧
    t = { s with
      tiles := t.tiles, engines := t.engines, rail := t.rail, alerts := t.alerts, chimes := t.chimes,
      pattern := t.pattern, ports := t.ports }
  else t = { s with rail := ⟨.rising 4, s.rail.attempts, s.rail.holdSetting⟩ }

/-- So, with the source that the sounder chooses after it (R139), and then every free transmitter with a
frame waiting has begun one (R192). -/
def State.risen (s t : State) : Prop := ∃ u, s.risenTo u ∧ (s.soundOk = true → s.hears u) ∧ t = u.finish

/-- The records stand as before but for `f`, which may change them and remove none; where the rail reaches
ON at the event, DRIVE_FAULT is cleared as well. -/
def State.recordsBecome (s t : State) (f : Alert → Alert) : Prop :=
  (∀ src code, s.makes t src code ((s.record src code).map f)) ∧
  (¬s.risesAtOnce → t.alerts = s.alerts.map f)

/-! ### What is composed -/

/-- The eligible records, or those for the sounder, in selection order (R122, R138): by severity, WARNING
first, and within a severity by position. -/
def ranked (l : List Alert) : List Alert :=
  [Severity.warning, .caution, .advisory].flatMap fun v => l.filter fun a => decide (a.severity = v)

/-- The records that the banner shows (R121, R122). -/
def State.bannerRecords (s : State) : List Alert :=
  ranked (s.alerts.filter fun a => decide (a.shelved = none ∧ a.state.stage ≠ .activeAck))

/-- The cell is composed from this value, altered by the blink phase (R8). -/
def State.shows (s : State) (row col : Nat) (c : CellValue) : Prop :=
  s.view.composed row col = if s.time.phase = false ∧ c.blink = true then { c with glyph := 32 } else c

/-! ### What is sent (R203, R208) -/

def sourceNumber : Source → Byte
  | .port p => byteOf p.val
  | .system => 4

def ackerNumber : Option Acker → Byte
  | some (.port p) => byteOf p.val
  | some .key => 4
  | none => 255

def severityNumber : Severity → Byte
  | .advisory => 0
  | .caution => 1
  | .warning => 2

def stageNumber : AlertStage → Byte
  | .activeUnack => 0
  | .activeAck => 1
  | .clearedUnack => 2

/-- Seconds, low byte first, then the tick. -/
def stampBytes (a : Stamp) : List Byte :=
  [a.seconds.extractLsb' 0 8, a.seconds.extractLsb' 8 8, a.seconds.extractLsb' 16 8, a.seconds.extractLsb' 24 8,
   byteOf a.tick.val]

/-! ### Events left due -/

/-- The row of an event that a tick can leave due (log 2). -/
def Due.row : Due → Instr
  | .completion e => .jobCompletion e
  | .rise => .riseTimerExpiry
  | .hold => .holdTimerExpiry
  | .fall => .fallTimerExpiry
  | .retry => .retryTimerExpiry
  | .period => .periodEnd
  | .ackPress => .ackPress
  | .ackRelease => .ackRelease
  | .ackHold => .ackHold
  | .silencePress => .silencePress
  | .silenceRelease => .silenceRelease
  | .testPress => .testPress
  | .testRelease => .testRelease
  | .second => .secondEvent
  | .blink => .blinkEvent
  | .shelving => .shelvingExpiry
  | .refresh => .fullRefreshExpiry
  | .loss p => .portLoss p
  | .waitEnd p => .waitTimeout p

/-- `t` is `s` after these due events, each taken as its row takes it and due when it was taken; an order
that is open is drawn (log 2). -/
def State.takesDue : List Due → State → State → Prop
  | [], s, t => t = s
  | d :: ds, s, t => d ∈ s.dueNow ∧ ∃ u, exec d.row { s with
      choices := if s.dueNow.length = 1 then s.choices else s.choices + 1 } = .next u ∧ State.takesDue ds u t

end Sys2Proof.Machine
end

