-- ==== Sys2Proof/Certificates/Slice0/Obligations.lean ====
section
/-!
DEFINITION. The statements for the provers. `s` is the state a command finds, `t` the state it leaves.
Terms such as `State.serves`, `State.drawnFrom` and the laws (`…Ok`) are in Sys2Proof/Safety.lean.
-/

section
open Sys2Proof Sys2Proof.Machine

/-! ### The machine -/

/-- A step takes the command at the front of the queue; on an empty queue the part idles (log 1). -/
def Obligations.StepTakesFrontCommand : Prop :=
  ∀ (c : Instr) (s : State), step { s with pending := c :: s.pending } = exec c s ∧
    (s.pending = [] → step s = .next s)

/-- Every command is answered with a next state, and leaves the queue alone. -/
def Obligations.EveryCommandAnswersNext : Prop :=
  ∀ (c : Instr) (s : State), ∃ t, exec c s = .next t ∧ t.pending = s.pending

/-- The values of State.reset, block by block, and every law of Safety holding there. The rail RISING is
log 5, the power-good level log 6; that no second event, blink event, shelving expiry or hold is due and that
no frame has been sent (`lineEnd`) are the model's own marks (log 16). -/
def Obligations.ResetValues : Prop :=
  let r := State.reset
  let silent : ToneEntry := ⟨64, none, .together, 0, 1, 0, 1⟩
  r.ok = true ∧ r.time = ⟨0, 0, true, false, false⟩ ∧ r.shelvingDue = false ∧ r.keys.holdDue = false ∧
  (∀ i : WindowId, r.windows[i] = none) ∧ r.freeCells = 1024 ∧
  (∀ n : TileId, r.tiles[n] = ⟨.unknown ⟨0, 0⟩, 0, false⟩ ∧ r.panel[n] = unknownCells) ∧
  (∀ e : EngineId, r.engines[e] = none) ∧ r.refreshPeriod = 60 ∧ r.refreshCount = 0 ∧
  r.rail = ⟨.rising 4, 0, 3⟩ ∧ r.powerGood = false ∧ r.alerts = [] ∧ r.bandHeight = 1 ∧ r.chimes = [] ∧
  r.pattern = none ∧ r.tones = #v[silent, ⟨64, none, .together, 12, 16, 0, 1⟩,
    ⟨96, none, .together, 13, 32, 32, 0⟩, ⟨64, some 96, .alternate, 15, 16, 0, 0⟩,
    ⟨64, none, .together, 10, 32, 32, 0⟩, silent, silent, silent] ∧
  r.supervisor = none ∧ r.remoteTest = false ∧ r.blank = false ∧
  r.keys.ack = ⟨false, false, 0⟩ ∧ r.keys.silence = ⟨false, false, 0⟩ ∧ r.keys.test = ⟨false, false, 0⟩ ∧
  r.keys.holdTicks = 0 ∧ (∀ p : PortId, r.ports[p] =
    { state := .detached, keepalive := 0, lossAction := .keep, keepaliveCount := none, noticesEnabled := true
      flags := ⟨false, false, false, false⟩, wait := none, noticeCount := 0, rx := [], responses := []
      notices := []
      filters := #v[⟨false, .area, 0, 0, 0, 0⟩, ⟨false, .area, 0, 0, 0, 0⟩, ⟨false, .area, 0, 0, 0, 0⟩,
        ⟨true, .both, 255, 255, 255, 255⟩]
      tx := .free, lineEnd := .none }) ∧ (∀ l : LampId, r.lamp l = .off) ∧ r.sounder = .silence

/-- POWER_ON_RESET from any state: the reset values, with the rail RISING, or, with power-good asserted,
ON at the same event with T0 to T3 handed to the engines as FULL jobs (R77). The power-good level stands (log
6); the model's own fields are by log 16. -/
def Obligations.PowerOnResetSetsResetValues : Prop :=
  ∀ s : State,
    (s.powerGood = false → exec .powerOnReset s = .next { State.reset with
      ports := #v[s.ports[0].powerOn, s.ports[1].powerOn, s.ports[2].powerOn, s.ports[3].powerOn]
      choices := s.choices
      pending := s.pending }) ∧
    (s.powerGood = true → ∃ t, exec .powerOnReset s = .next t ∧
      t.time = ⟨0, 0, true, false, false⟩ ∧ t.windows = State.reset.windows ∧ t.panel = State.reset.panel ∧
      t.alerts = [] ∧ t.chimes = [] ∧ t.pattern = none ∧ t.tones = tonesReset ∧ t.bandHeight = 1 ∧
      t.supervisor = none ∧ t.remoteTest = false ∧ t.blank = false ∧ t.keys = State.reset.keys ∧
      t.refreshPeriod = 60 ∧ t.refreshCount = 0 ∧ t.powerGood = true ∧ t.shelvingDue = false ∧
      t.choices = s.choices ∧ t.pending = s.pending ∧
      t.rail = ⟨.on none, 0, 3⟩ ∧ (∀ p : PortId, t.ports[p] = s.ports[p].powerOn) ∧
      (∀ e : EngineId, t.engines[e] = some ⟨⟨e.val, by omega⟩, .fullDrive, Vector.replicate 8 background, 24⟩) ∧
      ∀ n : TileId, t.tiles[n] = ⟨if n.val < 4 then .driving else .unknown ⟨0, 0⟩, 0, false⟩)

/-! ### Links -/

/-- A request body, framed as a sender frames it, is received as that body. The check: 16 bits, from the
coefficient of x^15 to that of x^0, whose complement is the remainder, by the generator, of the bits times
x^16 with the register's preset of all ones. A list of bits stands for the polynomial over the field of two
elements whose highest coefficient is its first bit. -/
def Obligations.FramedBodyIsReceived : Prop :=
  (∀ body : List Byte, 3 ≤ body.length → body.length ≤ 112 → body.head? = some 1 →
    receive (lineOf body) = .request body) ∧
  ∀ bits : List Bool,
    let poly : List Bool → Polynomial (ZMod 2) := fun l =>
      l.foldl (fun q b => q * .X + if b then 1 else 0) 0
    (checkBits bits).length = 16 ∧
    (.X ^ 16 + .X ^ 12 + .X ^ 5 + 1 : Polynomial (ZMod 2)) ∣
      poly (bits ++ (checkBits bits).map not) + .X ^ bits.length * poly (List.replicate 16 true)

/-- Stuffed content that is more than a bare run of 1 bits: before a flag it is judged as it was sent, before
an abort it is discarded without restarting the keepalive. A run of 1 bits of any length, alone or directly
before a flag, is no frame (log 11). Content as sent never holds six 1 bits in a row. -/
def Obligations.ContentEndsByFlagOrAbort : Prop :=
  (∀ content : List Bool,
    (false ∈ content ∨ 5 ≤ content.length → receive (stuff 0 content ++ flagBits) = judgeContent content) ∧
    (false ∈ content ∨ 5 ≤ content.length →
      receive (stuff 0 content ++ List.replicate 7 true) = .discarded false)) ∧
  (∀ n : Nat, receive (List.replicate n true) = .nothing ∧
    receive (List.replicate n true ++ flagBits) = .nothing) ∧
  ∀ bits : List Bool, ¬List.replicate 6 true <:+: stuff 0 bits

/-- The outcomes of FRAME_RECEIVED at the port: the keepalive restarts at a good frame, a discard sets
RX_ERROR, a request that finds two in the buffer sets OVERRUN, one that finds one or a busy port waits
behind it, one that finds an empty buffer and a port that can take it is taken at its arrival. -/
def Obligations.FrameReceivedOutcomes : Prop :=
  ∀ (s : State) (p : PortId) (line : List Bool), s.ports[p].lossDue = false → s.time.secondDue = false →
    match receive line with
    | .nothing => exec (.frameReceived p line) s = .next s.finish
    | .discarded good => exec (.frameReceived p line) s = .next (s.modifyPort p fun u =>
        (if good then u.goodFrame else u).setRxError).finish
    | .request body =>
      let t := s.modifyPort p PortUnit.goodFrame
      match statusRequest body with
      | some (tag, extra) => exec (.frameReceived p line) s = .next (t.statusArrives p tag extra).finish
      | none =>
        (2 ≤ s.ports[p].rx.length → s.ports[p].canTake = false →
          exec (.frameReceived p line) s = .next (t.modifyPort p PortUnit.setOverrun).finish) ∧
        (s.ports[p].rx.length < 2 → s.ports[p].canTake = false →
          exec (.frameReceived p line) s =
            .next (t.modifyPort p fun u => { u with rx := u.rx ++ [body] }).finish) ∧
        (s.ports[p].rx = [] → s.ports[p].canTake = true →
          exec (.frameReceived p line) s = .next (carryBody p body t).finish)

/-- Taking a request from the buffer is the row of that request, on the state with the buffer's rest. The body of
each request: kind, tag, code, operands. -/
def Obligations.TakenRequestIsItsRow : Prop :=
  (∀ (i : Instr) (s : State) (p : PortId) (body : List Byte) (rest : List (List Byte)),
    requestBody i = some (p, body) → s.ports[p].rx = body :: rest → s.ports[p].canTake = true →
    ∃ t, exec (.takeRequest p) s = .next t ∧
      exec i (s.modifyPort p fun u => { u with rx := rest }) = .next t) ∧
  ∀ (p : PortId) (tag a b c d e f g h k : Byte) (l : List Byte) (m : BitVec 16) (n : BitVec 32),
    let body := fun (code : Byte) (ops : List Byte) => some (p, 1 :: tag :: code :: ops)
    requestBody (.attach p tag a b c) = body 1 [a, b, c] ∧ requestBody (.detach p tag) = body 2 [] ∧
    requestBody (.status p tag l) = body 3 l ∧ requestBody (.resetPort p tag) = body 4 [] ∧
    requestBody (.setFilter p tag a b c d e f g) = body 5 [a, b, c, d, e, f, g] ∧
    requestBody (.setNotices p tag a) = body 6 [a] ∧ requestBody (.waitSettled p tag a b) = body 7 [a, b] ∧
    requestBody (.openWindow p tag a b c d e) = body 16 [a, b, c, d, e] ∧
    requestBody (.closeWindow p tag a) = body 17 [a] ∧
    requestBody (.moveWindow p tag a b c d) = body 18 [a, b, c, d] ∧
    requestBody (.setWindow p tag a b c d) = body 19 [a, b, c, d] ∧
    requestBody (.writeCells p tag a b c l) = body 20 (a :: b :: c :: l) ∧
    requestBody (.fillCells p tag a b c d e f g) = body 21 [a, b, c, d, e, f, g] ∧
    requestBody (.readCells p tag a b c d) = body 22 [a, b, c, d] ∧ requestBody (.flush p tag a) = body 23 [a] ∧
    requestBody (.fullRefresh p tag a b) = body 32 [a, b] ∧
    requestBody (.setRefreshPeriod p tag a) = body 33 [a] ∧ requestBody (.setHold p tag a) = body 34 [a] ∧
    requestBody (.clearDriveFault p tag) = body 35 [] ∧
    requestBody (.raiseAlert p tag a b c d e f l) = body 48 (a :: b :: c :: d :: e :: f :: l) ∧
    requestBody (.clearAlert p tag a) = body 49 [a] ∧ requestBody (.ackAlert p tag a b) = body 50 [a, b] ∧
    requestBody (.shelveAlert p tag a b m) = body 51 [a, b, m.extractLsb' 0 8, m.extractLsb' 8 8] ∧
    requestBody (.unshelveAlert p tag a b) = body 52 [a, b] ∧ requestBody (.listAlerts p tag a) = body 53 [a] ∧
    requestBody (.setBanner p tag a) = body 64 [a] ∧
    requestBody (.setTone p tag a b c d e f g h k) = body 65 [a, b, c, d, e, f, g, h, k] ∧
    requestBody (.chime p tag a) = body 66 [a] ∧ requestBody (.panelTest p tag a) = body 67 [a] ∧
    requestBody (.blank p tag a) = body 68 [a] ∧ requestBody (.setTime p tag n) =
      body 69 [n.extractLsb' 0 8, n.extractLsb' 8 8, n.extractLsb' 16 8, n.extractLsb' 24 8]

/-- A free transmitter begins the oldest response, or else the oldest notice; a busy one goes on. At the
end of a transmission its frame leaves its queue, the port takes the request that waits in its buffer, if it
now can, and the next frame begins by the same choice. (With nothing left due where a request is taken, log 8;
TAKE_REQUEST at a port that cannot take one does nothing, log 3.) The bytes and bits of what is sent. -/
def Obligations.TransmissionsFollowTheQueues : Prop :=
  ∀ (s : State) (p : PortId),
    exec (.transmissionStart p) s = .next (s.modifyPort p fun u => { u with
      tx := if u.tx ≠ .free then u.tx else if u.responses ≠ [] then .response
        else if u.notices ≠ [] then .notice else .free }) ∧
    (let ended := s.modifyPort p fun u => { u with
      responses := if u.tx = .response then u.responses.tail else u.responses
      notices := if u.tx = .notice then u.notices.tail else u.notices
      tx := .free
      lineEnd := if u.tx = .free then u.lineEnd else .flag }
     (s.ports[p].rx = [] ∨ ended.ports[p].canTake = false →
      exec (.transmissionEnd p) s = .next ended.finish ∧ exec (.takeRequest p) ended = .next ended.finish) ∧
     (s.dueNow = [] → exec (.transmissionEnd p) s = exec (.takeRequest p) ended)) ∧
    (∀ (u : PortUnit) (r : Response) (q : QueuedNotice) (rs : List Response) (qs : List QueuedNotice),
      (u.tx = .free → u.sendingBits = none) ∧
      (u.tx = .response → u.responses = r :: rs →
        u.sendingBits = some (flagBits ++ stuff 0 (contentOf r.body) ++ flagBits)) ∧
      (u.tx = .notice → u.notices = q :: qs →
        u.sendingBits = some (flagBits ++ stuff 0 (contentOf q.body) ++ flagBits))) ∧
    (∀ r : Response, r.body = 2 :: r.tag :: r.code :: r.status.byte :: r.results) ∧
    ([Status.ok, .unknownRequest, .badLength, .badValue, .notAttached, .notPermitted, .roleTaken, .notOwner,
      .noWindow, .noSpace, .overlap, .outOfPanel, .outOfWindow, .writeDenied, .listFull, .noAlert, .full,
      .timeout, .windowGone].map Status.byte = [0, 1, 2, 3, 4, 5, 6, 7, 8, 10, 11, 12, 13, 14, 15, 16, 17, 18, 19]) ∧
    ∀ q : QueuedNotice, q.body = [3, q.tag,
      (match q.notice.kind with
        | .raised => 1
        | .reoccurred => 2
        | .escalated => 3
        | .acknowledged => 4
        | .cleared => 5
        | .shelved => 6
        | .unshelved => 7),
      sourceNumber q.notice.source, q.notice.code, q.notice.area, q.notice.cls,
      severityNumber q.notice.severity, stageNumber q.notice.stage, if q.notice.removed then 1 else 0,
      ackerNumber q.notice.ackBy] ++ stampBytes q.notice.time

/-! ### Requests and the port records -/

/-- Admission (R181): what each failed check answers, and that it changes nothing else; an ATTACH for a role that
another port holds; and the lengths and ranges that the checks allow, request by request. -/
def Obligations.AdmissionRefusals : Prop :=
  (∀ (i : Instr) (s : State) (p : PortId) (tag code : Byte) (ops : List Byte),
    requestBody i = some (p, 1 :: tag :: code :: ops) → s.ports[p].canTake = true →
    code ≠ RequestCode.status.byte →
    (code ≠ RequestCode.attach.byte → s.ports[p].state ≠ .attached →
      exec i s = .next (s.refuse p tag code .notAttached).finish) ∧
    ((code = RequestCode.attach.byte ∨ s.ports[p].state = .attached) →
      (lengthAllowed i = false → exec i s = .next (s.refuse p tag code .badLength).finish) ∧
      (lengthAllowed i = true → i.wellFormed = false →
        exec i s = .next (s.refuse p tag code .badValue).finish) ∧
      (i.wellFormed = true → supervisorOnly i = true → s.supervisor ≠ some p →
        exec i s = .next (s.refuse p tag code .notPermitted).finish))) ∧
  (∀ (s : State) (p q : PortId) (tag keepalive lossAction : Byte), s.ports[p].canTake = true →
    attachOk 1 keepalive lossAction = true → s.supervisor = some q → q ≠ p →
    exec (.attach p tag 1 keepalive lossAction) s =
      .next (s.refuse p tag RequestCode.attach.byte .roleTaken).finish) ∧
  ∀ (p : PortId) (tag a b c d e f g h k : Byte) (l : List Byte) (m : BitVec 16) (n : BitVec 32),
    let inRange := fun i : Instr => i.wellFormed = true
    let cellsFit := 2 ≤ l.length ∧ l.length ≤ 80 ∧ l.length % 2 = 0
    let condition := fun source code : Byte => source.toNat ≤ 4 ∧ (source = 4 → code.toNat ≤ 5)
    (lengthAllowed (.writeCells p tag a b c l) = true ↔ cellsFit) ∧
    (lengthAllowed (.raiseAlert p tag a b c d e f l) = true ↔ l.length ≤ 32) ∧
    (lengthAllowed (.status p tag l) = true ↔ l = []) ∧
    (inRange (.attach p tag a b c) ↔ a.toNat ≤ 1 ∧ b.toNat ≤ 60 ∧ c.toNat ≤ 1) ∧
    inRange (.detach p tag) ∧ inRange (.resetPort p tag) ∧ inRange (.clearDriveFault p tag) ∧
    inRange (.clearAlert p tag a) ∧ inRange (.setTime p tag n) ∧
    (inRange (.setFilter p tag a b c d e f g) ↔ a.toNat ≤ 3 ∧ b.toNat ≤ 1 ∧ c.toNat ≤ 2) ∧
    (inRange (.setNotices p tag a) ↔ a.toNat ≤ 1) ∧ (inRange (.panelTest p tag a) ↔ a.toNat ≤ 1) ∧
    (inRange (.blank p tag a) ↔ a.toNat ≤ 1) ∧
    (inRange (.waitSettled p tag a b) ↔ a.toNat ≤ 15 ∧ 1 ≤ b.toNat ∧ b.toNat ≤ 60) ∧
    (inRange (.openWindow p tag a b c d e) ↔ a.toNat ≤ 7 ∧ b.toNat ≤ 39 ∧ 1 ≤ c.toNat ∧ c.toNat ≤ 8 ∧
      1 ≤ d.toNat ∧ d.toNat ≤ 40 ∧ e.toNat ≤ 3) ∧
    (inRange (.closeWindow p tag a) ↔ a.toNat ≤ 15) ∧ (inRange (.flush p tag a) ↔ a.toNat ≤ 15) ∧
    (inRange (.moveWindow p tag a b c d) ↔ a.toNat ≤ 15 ∧ b.toNat ≤ 7 ∧ c.toNat ≤ 39 ∧ d.toNat ≤ 3) ∧
    (inRange (.setWindow p tag a b c d) ↔ a.toNat ≤ 15 ∧ b.toNat ≤ 1 ∧ c.toNat ≤ 1 ∧ d.toNat ≤ 15) ∧
    (cellsFit → (inRange (.writeCells p tag a b c l) ↔ a.toNat ≤ 15 ∧ b.toNat ≤ 7 ∧ c.toNat ≤ 39 ∧
      ∀ (i : Nat) (v : Byte), l[2 * i + 1]? = some v → v.toNat ≤ 3)) ∧
    (inRange (.fillCells p tag a b c d e f g) ↔ a.toNat ≤ 15 ∧ b.toNat ≤ 7 ∧ c.toNat ≤ 39 ∧ 1 ≤ d.toNat ∧
      d.toNat ≤ 8 ∧ 1 ≤ e.toNat ∧ e.toNat ≤ 40 ∧ g.toNat ≤ 3) ∧
    (inRange (.readCells p tag a b c d) ↔ a.toNat ≤ 15 ∧ b.toNat ≤ 7 ∧ c.toNat ≤ 39 ∧ 1 ≤ d.toNat ∧
      d.toNat ≤ 40) ∧
    (inRange (.fullRefresh p tag a b) ↔ a.toNat ≤ 1 ∧ b.toNat ≤ 15) ∧
    (inRange (.setRefreshPeriod p tag a) ↔ a.toNat ≤ 240) ∧
    (inRange (.setHold p tag a) ↔ 1 ≤ a.toNat ∧ a.toNat ≤ 60) ∧
    (l.length ≤ 32 → (inRange (.raiseAlert p tag a b c d e f l) ↔ d.toNat ≤ 2 ∧ (e.toNat ≤ 15 ∨ e = 255) ∧
      (f.toNat ≤ 7 ∨ f = 255))) ∧
    (inRange (.ackAlert p tag a b) ↔ condition a b) ∧ (inRange (.unshelveAlert p tag a b) ↔ condition a b) ∧
    (inRange (.shelveAlert p tag a b m) ↔ condition a b ∧ 1 ≤ m.toNat) ∧
    (inRange (.listAlerts p tag a) ↔ a.toNat ≤ 37) ∧
    (inRange (.setBanner p tag a) ↔ 1 ≤ a.toNat ∧ a.toNat ≤ 2) ∧
    (inRange (.setTone p tag a b c d e f g h k) ↔ a.toNat ≤ 7 ∧ c.toNat ≤ 1 ∧ e.toNat ≤ 1 ∧ f.toNat ≤ 15 ∧
      1 ≤ g.toNat) ∧
    (inRange (.chime p tag a) ↔ 1 ≤ a.toNat ∧ a.toNat ≤ 7)

/-- A buffered body whose code is in no row of R205, or whose operands do not fill its layout, by
whether the port is ATTACHED; an ATTACH needs no attached port. -/
def Obligations.UnreadableBodiesAreRefused : Prop :=
  ∀ (s : State) (p : PortId) (tag code : Byte) (ops : List Byte) (rest : List (List Byte)),
    s.ports[p].rx = (1 :: tag :: code :: ops) :: rest → s.ports[p].canTake = true →
    let t := s.modifyPort p fun u => { u with rx := rest }
    ((∀ rc, RequestCode.byte rc ≠ code) → exec (.takeRequest p) s = .next (t.refuse p tag code
      (if s.ports[p].state = .attached then .unknownRequest else .notAttached)).finish) ∧
    ((∃ rc, RequestCode.byte rc = code) → code ≠ RequestCode.status.byte →
      (∀ i, requestBody i ≠ some (p, 1 :: tag :: code :: ops)) →
      exec (.takeRequest p) s = .next (t.refuse p tag code
        (if code = RequestCode.attach.byte ∨ s.ports[p].state = .attached then .badLength
          else .notAttached)).finish)

/-- An accepted ATTACH: the port's record, role and response by the state it found, PORT_LOST cleared at a
re-attach from LOST, and what stays. The port's own unit keeps its buffer, queues, flags and, where it was not
DETACHED, its filters and notice count; it may then take the notices that the event makes, those of the
clearing of PORT_LOST. The picture: the end of a remote test with the role, then the change of the list (log 24). -/
def Obligations.AttachAccepted : Prop :=
  ∀ (s : State) (p : PortId) (tag role keepalive lossAction : Byte),
    s.ports[p].canTake = true → attachOk role keepalive lossAction = true → s.time.secondDue = false →
    s.supervisorOk = true → (role = 1 → s.supervisor = none ∨ s.supervisor = some p) →
    ∃ t, exec (.attach p tag role keepalive lossAction) s = .next t ∧
      t.ports[p].state = .attached ∧ t.ports[p].keepalive = keepalive.toNat ∧
      t.ports[p].lossAction = (if lossAction = 1 then .close else .keep) ∧
      t.ports[p].keepaliveCount = (if keepalive = 0 then none else some 0) ∧
      t.ports[p].rx = s.ports[p].rx ∧ s.answers t p tag .attach .ok [match s.ports[p].state with
        | .detached => 0
        | .attached => 1
        | .lost => 2] ∧
      t.supervisor = (if role = 1 then some p else if s.supervisor = some p then none else s.supervisor) ∧
      t.remoteTest = (if role = 0 ∧ s.supervisor = some p then false else s.remoteTest) ∧
      (s.ports[p].state = .detached → t.ports[p].filters = filtersReset ∧
        t.ports[p].noticesEnabled = true ∧ t.ports[p].noticeCount = 0) ∧
      (s.ports[p].state ≠ .detached → t.ports[p].filters = s.ports[p].filters ∧
        t.ports[p].noticesEnabled = s.ports[p].noticesEnabled) ∧
      (s.ports[p].state = .lost → t.record .system (portLostCode p) =
        afterClear s.now (s.record .system (portLostCode p))) ∧
      s.keepsRecordsBut t (if s.ports[p].state = .lost then [(.system, portLostCode p)] else []) ∧
      let r := s.modifyPort p fun u => { u with
        state := .attached
        keepalive := keepalive.toNat
        lossAction := if lossAction = 1 then .close else .keep
        keepaliveCount := if keepalive = 0 then none else some 0
        filters := if u.state = .detached then filtersReset else u.filters
        noticesEnabled := decide (u.state = .detached) || u.noticesEnabled
        noticeCount := if u.state = .detached then 0 else u.noticeCount }
      (∃ a, (if role = 0 then r.releases a p else a = { r with supervisor := some p }) ∧
        if s.ports[p].state = .lost then a.relisted t else a.undrawn t) ∧
      (({ r with
        supervisor := t.supervisor
        remoteTest := t.remoteTest } : State).answered p tag .attach .ok [s.ports[p].state.byte]).listedFrom s
          (if s.ports[p].state = .lost then clearNotices s.now (s.record .system (portLostCode p)) else []) t

/-- DETACH: the port's record, its windows with the waits on them, its records with their notices in list
order, the role, and what stays. The picture: the end of a remote test with the role, the closures, then the
change of the list, each answered by the drive in turn (log 24). A notice in transmission stays in the emptied
queue until its end: the model's choice (log 10). -/
def Obligations.DetachEffects : Prop :=
  ∀ (s : State) (p : PortId) (tag : Byte), s.serves p →
    ∃ t, exec (.detach p tag) s = .next t ∧ s.answers t p tag .detach .ok [] ∧
      t.ports[p].state = .detached ∧ t.ports[p].keepaliveCount = none ∧
      t.ports[p].keepalive = s.ports[p].keepalive ∧ t.ports[p].lossAction = s.ports[p].lossAction ∧
      t.ports[p].flags = s.ports[p].flags ∧ t.ports[p].rx = s.ports[p].rx ∧
      t.ports[p].filters = filtersReset ∧ t.ports[p].noticesEnabled = true ∧ t.ports[p].noticeCount = 0 ∧
      t.ports[p].notices = (if s.ports[p].tx = .notice then s.ports[p].notices.take 1 else []) ∧
      t.supervisor = (if s.supervisor = some p then none else s.supervisor) ∧
      t.remoteTest = (if s.supervisor = some p then false else s.remoteTest) ∧
      (∀ i : WindowId, t.windows[i] = s.windows[i].filter fun w => decide (w.owner ≠ p)) ∧
      s.waitsGone t p ∧
      (∀ code, t.record (.port p) code = afterClear s.now (s.record (.port p) code)) ∧
      (∀ q code, q ≠ p → t.record (.port q) code = s.record (.port q) code) ∧ s.overflowFollows t ∧
      (∀ code, code ≠ listOverflowCode → s.makes t .system code (s.record .system code)) ∧
      let goes := fun u : PortUnit => { u with
        state := .detached
        keepaliveCount := none }
      let empties := fun u : PortUnit => { u with
        filters := filtersReset
        noticesEnabled := true
        noticeCount := 0
        notices := if u.tx = .notice then u.notices.take 1 else [] }
      (∃ a b, (s.modifyPort p goes).releases a p ∧ (a.modifyPort p empties).closes b p ∧ b.relisted t) ∧
      ∃ ns, (s.alertsOk = true → ns = s.portNotices t p) ∧ ((({ s with
        windows := t.windows
        supervisor := t.supervisor
        remoteTest := t.remoteTest } : State).modifyPort p fun u => empties (goes u)).answered p tag .detach .ok
          []).listedFrom s ns t

/-- RESET_PORT: as DETACH for windows, records with their notices, and filters, but the port stays ATTACHED
with its role, and takes the notices that the event makes; the waits on its windows end with WINDOW_GONE. The
picture: the closures, then the change of the list, each answered by the drive in turn (log 24). A notice in
transmission stays in the emptied queue until its end: the model's choice (log 10). -/
def Obligations.ResetPortEffects : Prop :=
  ∀ (s : State) (p : PortId) (tag : Byte), s.serves p →
    ∃ t, exec (.resetPort p tag) s = .next t ∧ s.answers t p tag .resetPort .ok [] ∧
      t.ports[p].state = .attached ∧ t.ports[p].keepaliveCount = s.ports[p].keepaliveCount ∧
      t.ports[p].keepalive = s.ports[p].keepalive ∧ t.ports[p].lossAction = s.ports[p].lossAction ∧
      t.ports[p].rx = s.ports[p].rx ∧ t.ports[p].filters = filtersReset ∧
      t.ports[p].noticesEnabled = true ∧
      (if s.ports[p].tx = .notice then s.ports[p].notices.take 1 else []) <+: t.ports[p].notices ∧
      (∀ i : WindowId, t.windows[i] = s.windows[i].filter fun w => decide (w.owner ≠ p)) ∧
      (∀ (q : PortId) (v : Wait) (w : Window), s.ports[q].wait = some v → s.windows[v.window] = some w →
        w.owner = p → t.ports[q].wait = none ∧ t.ports[q].responses =
          s.ports[q].responses ++ [⟨true, v.tag, 7, .windowGone, []⟩]) ∧
      (∀ code, t.record (.port p) code = afterClear s.now (s.record (.port p) code)) ∧
      (∀ q code, q ≠ p → t.record (.port q) code = s.record (.port q) code) ∧ s.overflowFollows t ∧
      (∀ code, code ≠ listOverflowCode → s.makes t .system code (s.record .system code)) ∧
      let r := s.modifyPort p fun u => { u with
        filters := filtersReset
        noticesEnabled := true
        noticeCount := 0
        notices := if u.tx = .notice then u.notices.take 1 else [] }
      (∃ b, r.closes b p ∧ b.relisted t) ∧
      ∃ ns, (s.alertsOk = true → ns = s.portNotices t p) ∧
        (({ r with windows := t.windows } : State).answered p tag .resetPort .ok []).listedFrom s ns t

/-- STATUS in any port state: the report as it is laid out, the flags cleared after it, and nothing else;
BAD_LENGTH for a longer body, and OVERRUN where three STATUS responses are queued. -/
def Obligations.StatusReports : Prop :=
  ∀ (s : State) (p : PortId) (tag : Byte) (extra : List Byte),
    (3 ≤ s.ports[p].statusResponses →
      exec (.status p tag extra) s = .next (s.modifyPort p PortUnit.setOverrun).finish) ∧
    (s.ports[p].statusResponses < 3 → extra ≠ [] →
      exec (.status p tag extra) s = .next (s.modifyPort p fun u =>
        { u with responses := u.responses ++ [⟨false, tag, 3, .badLength, []⟩] }).finish) ∧
    (s.ports[p].statusResponses < 3 →
      exec (.status p tag []) s = .next (s.modifyPort p fun u => { u with
        flags := ⟨false, false, false, false⟩
        responses := u.responses ++ [⟨false, tag, 3, .ok,
          [(match u.state with
            | .detached => 0
            | .attached => 1
            | .lost => 2),
           if s.supervisor = some p then 1 else 0, if u.wait.isSome then 1 else 0,
           byteOf ((if u.flags.rxError then 1 else 0) + (if u.flags.overrun then 2 else 0)
            + (if u.flags.noticesLost then 4 else 0) + (if u.flags.changesPending then 8 else 0)),
           (match s.supervisor with
            | some q => byteOf q.val
            | none => 255),
           byteOf (1024 - consumed s.windows), byteOf ((1024 - consumed s.windows) / 256),
           byteOf (s.alerts.countP fun a => decide (a.source = .port p)),
           byteOf (s.alerts.countP fun a => decide (a.source ≠ .system)), byteOf s.alerts.length,
           (match s.rail.state with
            | .off => 0
            | .rising _ => 1
            | .on _ => 2
            | .falling _ => 3
            | .fault _ => 4),
           byteOf s.rail.attempts,
           s.time.seconds.extractLsb' 0 8, s.time.seconds.extractLsb' 8 8,
           s.time.seconds.extractLsb' 16 8, s.time.seconds.extractLsb' 24 8, byteOf s.time.tick.val,
           byteOf (s.tiles.toList.countP TileRec.waiting)]⟩] }).finish)

/-- The requests that set one value of the part and nothing else. SET_NOTICES OFF empties the notice queue but
for a notice in transmission, which stays until its end: the model's choice (log 10). -/
def Obligations.SettingRequestsSetTheirValue : Prop :=
  ∀ (s : State) (p : PortId) (tag : Byte), s.serves p →
    (∀ filter enabled mode av am cv cm, setFilterOk filter enabled mode = true →
      exec (.setFilter p tag filter enabled mode av am cv cm) s = .next (s.modifyPort p fun u => { u with
        filters := u.filters.set (filter.toNat % 4) ⟨enabled = 1,
          if mode = 0 then .area else if mode = 1 then .cls else .both, av, am, cv, cm⟩
          (Nat.mod_lt _ (by decide))
        responses := u.responses ++ [⟨true, tag, 5, .ok, []⟩] }).finish) ∧
    (exec (.setNotices p tag 1) s = .next (s.modifyPort p fun u => { u with
        noticesEnabled := true
        responses := u.responses ++ [⟨true, tag, 6, .ok, []⟩] }).finish) ∧
    (exec (.setNotices p tag 0) s = .next (s.modifyPort p fun u => { u with
        noticesEnabled := false
        notices := if u.tx = .notice then u.notices.take 1 else []
        flags := { u.flags with
          changesPending := u.flags.changesPending ||
            decide ((if u.tx = .notice then 1 else 0) < u.notices.length) }
        responses := u.responses ++ [⟨true, tag, 6, .ok, []⟩] }).finish) ∧
    (∀ seconds : Byte, s.supervisor = some p → 1 ≤ seconds.toNat → seconds.toNat ≤ 60 →
      exec (.setHold p tag seconds) s = .next (({ s with
        rail := { s.rail with holdSetting := seconds.toNat } } : State).modifyPort p fun u => { u with
        responses := u.responses ++ [⟨true, tag, 34, .ok, []⟩] }).finish) ∧
    (∀ minutes : Byte, s.supervisor = some p → minutes.toNat ≤ 240 → s.time.secondDue = false →
      s.refreshDue = false →
      exec (.setRefreshPeriod p tag minutes) s = .next (({ s with
        refreshPeriod := minutes.toNat
        refreshCount := 0 } : State).modifyPort p fun u => { u with
        responses := u.responses ++ [⟨true, tag, 33, .ok, []⟩] }).finish)

/-- WAIT_SETTLED answers OK at once for a settled window, and otherwise starts a wait and answers nothing;
WAIT_TIMEOUT ends a wait whose count has reached its timeout. Where no wait has, it does nothing: the model's
choice (log 3). -/
def Obligations.WaitsBeginAndTimeOut : Prop :=
  (∀ (s : State) (p : PortId) (tag window timeout : Byte) (w : Window), s.serves p →
    waitSettledOk window timeout = true → s.time.secondDue = false →
    s.windows[windowOf window] = some w →
    ((∀ n : TileId, w.rect.touches n = true → s.tiles[n].state = .settled) →
      exec (.waitSettled p tag window timeout) s = .next (s.modifyPort p fun u =>
        { u with responses := u.responses ++ [⟨true, tag, 7, .ok, []⟩] }).finish) ∧
    ((∃ n : TileId, w.rect.touches n = true ∧ s.tiles[n].state ≠ .settled) →
      exec (.waitSettled p tag window timeout) s = .next (s.modifyPort p fun u =>
        { u with wait := some ⟨windowOf window, timeout.toNat, 0, tag⟩ }).finish)) ∧
  ∀ (s : State) (p : PortId),
    (∀ w, s.ports[p].wait = some w → w.timeout ≤ w.count →
      exec (.waitTimeout p) s = .next (s.modifyPort p fun u => { u with
        wait := none
        responses := u.responses ++ [⟨true, w.tag, 7, .timeout, []⟩] }).finish) ∧
    ((∀ w, s.ports[p].wait = some w → w.count < w.timeout) → exec (.waitTimeout p) s = .next s.finish)

/-- PORT_LOSS: what a loss does to the port, to its windows with the waits on them and its records by its loss
action, to the role, and that it raises PORT_LOST, with the notices in their order. The picture: the end of a
remote test with the role, the closures, then the change of the list, each answered by the drive in turn (log 24).
A loss is due where the count has reached the keepalive, a keepalive of 1 too (log 25). Where no loss is due it does
nothing: the model's choice (log 3). -/
def Obligations.PortLossEffects : Prop :=
  ∀ (s : State) (p : PortId),
    portLostCode p = byteOf p.val ∧
    portLostMessage p = [80, 79, 82, 84, 32, byteOf (48 + p.val), 32, 76, 73, 78, 75, 32, 76, 79, 83, 84] ∧
    (s.ports[p].lossDue = false → exec (.portLoss p) s = .next s.finish) ∧
    (s.ports[p].lossDue = true → ∃ t, exec (.portLoss p) s = .next t ∧
      t.ports[p] = { s.ports[p] with
        state := .lost, keepaliveCount := none, wait := none, rx := [], responses := [], notices := []
        tx := .free
        lineEnd := if s.ports[p].tx = .free then s.ports[p].lineEnd else .abort
        filters := if s.ports[p].lossAction = .close then filtersReset else s.ports[p].filters } ∧
      t.supervisor = (if s.supervisor = some p then none else s.supervisor) ∧
      t.remoteTest = (if s.supervisor = some p then false else s.remoteTest) ∧
      (∀ i : WindowId, t.windows[i] = s.windows[i].filter fun w =>
        decide (s.ports[p].lossAction = .keep ∨ w.owner ≠ p)) ∧
      (∀ code, t.record (.port p) code = if s.ports[p].lossAction = .close
        then afterClear s.now (s.record (.port p) code) else s.record (.port p) code) ∧
      t.record .system (portLostCode p) = some (afterRaise s.now .system (portLostCode p)
        ⟨255, 255, .caution, some 15, none, portLostMessage p⟩ (s.record .system (portLostCode p))) ∧
      (∀ q code, q ≠ p → t.record (.port q) code = s.record (.port q) code) ∧ s.overflowFollows t ∧
      (∀ code, code ≠ listOverflowCode → code ≠ portLostCode p →
        s.makes t .system code (s.record .system code)) ∧
      (s.ports[p].lossAction = .close → s.waitsGone t p) ∧
      (∃ a b, (s.modifyPort p fun _ => t.ports[p]).releases a p ∧
        (if s.ports[p].lossAction = .close then a.closes b p else b = a) ∧ b.relisted t) ∧
      ∃ ns, (s.alertsOk = true → ns = (if s.ports[p].lossAction = .close then s.portNotices t p else [])) ∧
      (({ s with
        windows := t.windows
        supervisor := t.supervisor
        remoteTest := t.remoteTest } : State).modifyPort p fun _ => t.ports[p]).listedFrom s
          (ns ++ [raiseNotice s.now .system (portLostCode p)
            ⟨255, 255, .caution, some 15, none, portLostMessage p⟩ (s.record .system (portLostCode p))]) t)

/-- Which notices a port receives. -/
def Obligations.NoticesReceived : Prop :=
  ∀ (p : PortId) (n : Notice) (u : PortUnit), u.receives p n = true ↔
    u.state = .attached ∧ (n.source = .port p ∨
      (∃ k : Fin 4, u.filters[k].enabled = true ∧ match u.filters[k].mode with
        | .area => ∀ b < 8, u.filters[k].areaMask.getLsbD b = true →
            n.area.getLsbD b = u.filters[k].areaValue.getLsbD b
        | .cls => ∀ b < 8, u.filters[k].clsMask.getLsbD b = true →
            n.cls.getLsbD b = u.filters[k].clsValue.getLsbD b
        | .both => (∀ b < 8, u.filters[k].areaMask.getLsbD b = true →
            n.area.getLsbD b = u.filters[k].areaValue.getLsbD b) ∧
            ∀ b < 8, u.filters[k].clsMask.getLsbD b = true →
            n.cls.getLsbD b = u.filters[k].clsValue.getLsbD b) ∨
      ∀ k : Fin 4, u.filters[k].enabled = false)

/-- What a Port Unit does with a notice handed to it, and that all four take it. -/
def Obligations.NoticesTaken : Prop :=
  (∀ (p : PortId) (n : Notice) (u : PortUnit),
    (u.receives p n = false → u.takeNotice p n = u) ∧
    (u.receives p n = true → u.noticesEnabled = true → u.notices.length < 8 → u.takeNotice p n =
      { u with
        noticeCount := u.noticeCount + 1
        notices := u.notices ++ [⟨u.noticeCount + 1, n⟩] }) ∧
    (u.receives p n = true → u.noticesEnabled = true → 8 ≤ u.notices.length → u.takeNotice p n =
      { u with
        noticeCount := u.noticeCount + 1
        flags := { u.flags with noticesLost := true } }) ∧
    (u.receives p n = true → u.noticesEnabled = false → u.takeNotice p n =
      { u with
        noticeCount := u.noticeCount + 1
        flags := { u.flags with changesPending := true } })) ∧
  ∀ (n : Notice) (s : State) (q : PortId), (s.deliver n).ports[q] = s.ports[q].takeNotice q n

/-! ### Windows -/

/-- An accepted OPEN_WINDOW opens the lowest-numbered FREE entry. -/
def Obligations.OpenWindowOpens : Prop :=
  ∀ (s : State) (p : PortId) (tag row col height width level : Byte) (i : WindowId), s.serves p →
    openWindowOk row col height width level = true →
    s.windows[i] = none → (∀ j < i, s.windows[j] ≠ none) →
    row.toNat + height.toNat ≤ 8 → col.toNat + width.toNat ≤ 40 →
    (∀ (j : WindowId) (w : Window), s.windows[j] = some w → w.level = level.toNat →
      w.rect.meets ⟨row.toNat, col.toNat, height.toNat, width.toNat⟩ = false) →
    height.toNat * width.toNat ≤ s.freeCells →
    ∃ t, exec (.openWindow p tag row col height width level) s = .next t ∧
      s.answers t p tag .openWindow .ok [byteOf i.val] ∧
      t.windows = s.windows.set i (some ⟨p, row.toNat, col.toNat, height.toNat, width.toNat, level.toNat,
        true, 0, List.replicate (height.toNat * width.toNat) background, none⟩) ∧
      (s.poolOk = true → t.freeCells + height.toNat * width.toNat = s.freeCells) ∧
      (({ s with windows := t.windows } : State).answered p tag .openWindow .ok [byteOf i.val]).drawnFrom t ∧
      s.redrawn t (Rect.touches ⟨row.toNat, col.toNat, height.toNat, width.toNat⟩)

/-- The refusals of OPEN_WINDOW, in their order: NO_WINDOW, OUT_OF_PANEL, OVERLAP, NO_SPACE. -/
def Obligations.OpenWindowRefusals : Prop :=
  ∀ (s : State) (p : PortId) (tag row col height width level : Byte), s.serves p →
    openWindowOk row col height width level = true →
    let r : Rect := ⟨row.toNat, col.toNat, height.toNat, width.toNat⟩
    let meeting := ∃ (j : WindowId) (w : Window), s.windows[j] = some w ∧ w.level = level.toNat ∧
      w.rect.meets r = true
    let inside := row.toNat + height.toNat ≤ 8 ∧ col.toNat + width.toNat ≤ 40
    let refusal := fun st => exec (.openWindow p tag row col height width level) s =
      .next (s.refuse p tag 16 st).finish
    ((∀ i : WindowId, s.windows[i] ≠ none) → refusal .noWindow) ∧
    ((∃ i : WindowId, s.windows[i] = none) →
      (¬inside → refusal .outOfPanel) ∧ (inside → meeting → refusal .overlap) ∧
      (inside → ¬meeting → s.freeCells < height.toNat * width.toNat → refusal .noSpace))

/-- The refusals of the requests on a window: NO_WINDOW for a FREE entry, NOT_OWNER and WRITE_DENIED by
the rights, then the checks of each request. -/
def Obligations.WindowRequestRefusals : Prop :=
  ∀ (s : State) (p : PortId) (tag window : Byte), s.serves p → upTo 15 window = true →
    let no := fun (code : Byte) (st : Status) =>
      (Host.Outcome.next (s.refuse p tag code st).finish : Host.Outcome State Fault Refusal)
    (s.windows[windowOf window] = none →
      exec (.closeWindow p tag window) s = no 17 .noWindow ∧ exec (.flush p tag window) s = no 23 .noWindow ∧
      (∀ row col level, moveWindowOk window row col level = true →
        exec (.moveWindow p tag window row col level) s = no 18 .noWindow) ∧
      (∀ visible deferred writers, setWindowOk window visible deferred writers = true →
        exec (.setWindow p tag window visible deferred writers) s = no 19 .noWindow) ∧
      (∀ row col cells, cellsLengthOk cells = true → writeCellsOk window row col cells = true →
        exec (.writeCells p tag window row col cells) s = no 20 .noWindow) ∧
      (∀ row col height width glyph attr, fillCellsOk window row col height width attr = true →
        exec (.fillCells p tag window row col height width glyph attr) s = no 21 .noWindow) ∧
      (∀ row col count, readCellsOk window row col count = true →
        exec (.readCells p tag window row col count) s = no 22 .noWindow) ∧
      (∀ timeout, within 1 60 timeout = true →
        exec (.waitSettled p tag window timeout) s = no 7 .noWindow) ∧
      (s.supervisor = some p → exec (.fullRefresh p tag 1 window) s = no 32 .noWindow)) ∧
    ∀ w : Window, s.windows[windowOf window] = some w →
      (w.owner ≠ p →
        exec (.closeWindow p tag window) s = no 17 .notOwner ∧
        (∀ row col level, moveWindowOk window row col level = true →
          exec (.moveWindow p tag window row col level) s = no 18 .notOwner) ∧
        (∀ visible deferred writers, setWindowOk window visible deferred writers = true →
          exec (.setWindow p tag window visible deferred writers) s = no 19 .notOwner)) ∧
      (w.owner ≠ p → w.writers.getLsbD p.val = false →
        exec (.flush p tag window) s = no 23 .writeDenied ∧
        (∀ row col cells, cellsLengthOk cells = true → writeCellsOk window row col cells = true →
          exec (.writeCells p tag window row col cells) s = no 20 .writeDenied) ∧
        (∀ row col height width glyph attr, fillCellsOk window row col height width attr = true →
          exec (.fillCells p tag window row col height width glyph attr) s = no 21 .writeDenied)) ∧
      (w.owner = p →
        (∀ row col level, moveWindowOk window row col level = true →
          (¬(row.toNat + w.height ≤ 8 ∧ col.toNat + w.width ≤ 40) →
            exec (.moveWindow p tag window row col level) s = no 18 .outOfPanel) ∧
          (row.toNat + w.height ≤ 8 ∧ col.toNat + w.width ≤ 40 →
            (∃ (j : WindowId) (v : Window), j ≠ windowOf window ∧ s.windows[j] = some v ∧
              v.level = level.toNat ∧ v.rect.meets ⟨row.toNat, col.toNat, w.height, w.width⟩ = true) →
            exec (.moveWindow p tag window row col level) s = no 18 .overlap)) ∧
        (∀ visible writers, setWindowOk window visible 1 writers = true → w.published = none →
          s.freeCells < w.area → exec (.setWindow p tag window visible 1 writers) s = no 19 .noSpace)) ∧
      (w.owner = p ∨ w.writers.getLsbD p.val = true →
        (∀ row col cells, cellsLengthOk cells = true → writeCellsOk window row col cells = true →
          ¬(row.toNat < w.height ∧ col.toNat < w.width ∧
            row.toNat * w.width + col.toNat + cells.length / 2 ≤ w.area) →
          exec (.writeCells p tag window row col cells) s = no 20 .outOfWindow) ∧
        (∀ row col height width glyph attr, fillCellsOk window row col height width attr = true →
          ¬(row.toNat + height.toNat ≤ w.height ∧ col.toNat + width.toNat ≤ w.width) →
          exec (.fillCells p tag window row col height width glyph attr) s = no 21 .outOfWindow)) ∧
      (∀ row col count, readCellsOk window row col count = true →
        ¬(row.toNat < w.height ∧ col.toNat < w.width ∧
          row.toNat * w.width + col.toNat + count.toNat ≤ w.area) →
        exec (.readCells p tag window row col count) s = no 22 .outOfWindow)

/-- CLOSE_WINDOW by the owner: the entry FREE, its cells back, the waits on it ended with WINDOW_GONE. -/
def Obligations.CloseWindowCloses : Prop :=
  ∀ (s : State) (p : PortId) (tag window : Byte) (w : Window), s.serves p → upTo 15 window = true →
    s.windows[windowOf window] = some w → w.owner = p →
    ∃ t, exec (.closeWindow p tag window) s = .next t ∧ s.answers t p tag .closeWindow .ok [] ∧
      t.windows = s.windows.set (windowOf window) none ∧
      (s.poolOk = true → t.freeCells = s.freeCells + w.consumption) ∧
      (∀ (q : PortId) (v : Wait), s.ports[q].wait = some v → v.window = windowOf window →
        t.ports[q].wait = none ∧ t.ports[q].responses =
          s.ports[q].responses ++ [⟨true, v.tag, 7, .windowGone, []⟩]) ∧
      (({ s with windows := t.windows } : State).answered p tag .closeWindow .ok []).drawnFrom t ∧
      s.redrawn t w.rect.touches

/-- MOVE_WINDOW by the owner: place and level replaced, all else of the window kept, and a wait on it ends
exactly when every tile of the new rectangle is SETTLED; the tiles of both rectangles reported, the waits on other
windows, and the drive's answer. -/
def Obligations.MoveWindowMoves : Prop :=
  ∀ (s : State) (p : PortId) (tag window row col level : Byte) (w : Window), s.serves p →
    moveWindowOk window row col level = true → s.windows[windowOf window] = some w → w.owner = p →
    row.toNat + w.height ≤ 8 → col.toNat + w.width ≤ 40 →
    (∀ (j : WindowId) (v : Window), j ≠ windowOf window → s.windows[j] = some v →
      v.level = level.toNat → v.rect.meets ⟨row.toNat, col.toNat, w.height, w.width⟩ = false) →
    ∃ t, exec (.moveWindow p tag window row col level) s = .next t ∧
      s.answers t p tag .moveWindow .ok [] ∧
      t.windows = s.windows.set (windowOf window)
        (some { w with row := row.toNat, col := col.toNat, level := level.toNat }) ∧
      (¬s.risesAtOnce → ∀ (q : PortId) (v : Wait), s.ports[q].wait = some v → v.window = windowOf window →
        if ∀ n : TileId, Rect.touches ⟨row.toNat, col.toNat, w.height, w.width⟩ n = true →
          t.tiles[n].state = .settled
        then t.ports[q].wait = none ∧
          t.ports[q].responses = s.ports[q].responses ++ [⟨true, v.tag, 7, .ok, []⟩]
        else t.ports[q].wait = some v) ∧
      (({ s with windows := t.windows } : State).answered p tag .moveWindow .ok []).drawnFrom t ∧
      let tiles := s.reportedTiles { t with alerts := s.alerts } fun n =>
        w.rect.touches n || Rect.touches ⟨row.toNat, col.toNat, w.height, w.width⟩ n
      (s.undriven t s.alerts tiles).driveFollows t ∧
      s.waitsFollow t fun i v => s.reportsEnd t s.alerts tiles v ∨
        (i = windowOf window ∧ ∀ n : TileId, v.rect.touches n = true → tiles[n].state = .settled)

/-- SET_WINDOW by the owner: the three settings; a window that becomes deferred composes a copy of its
working content, one that is no longer deferred composes its working content. -/
def Obligations.SetWindowSets : Prop :=
  ∀ (s : State) (p : PortId) (tag window visible deferred writers : Byte) (w : Window), s.serves p →
    setWindowOk window visible deferred writers = true → s.windows[windowOf window] = some w →
    w.owner = p → (deferred = 1 → w.published = none → w.area ≤ s.freeCells) →
    ∃ t v, exec (.setWindow p tag window visible deferred writers) s = .next t ∧
      s.answers t p tag .setWindow .ok [] ∧
      t.windows = s.windows.set (windowOf window) (some { w with
        visible := decide (visible = 1)
        published := if deferred = 1 then some (w.published.getD w.working) else none
        writers := v }) ∧
      (∀ q : PortId, v.getLsbD q.val = (decide (q ≠ p) && writers.getLsbD q.val)) ∧
      (s.poolOk = true → t.freeCells + (if deferred = 1 then 2 * w.area else w.area) =
        s.freeCells + w.consumption) ∧
      (({ s with windows := t.windows } : State).answered p tag .setWindow .ok []).drawnFrom t ∧
      if w.visible = decide (visible = 1) ∧ (deferred = 1 ∨ w.published = none)
      then s.undrawn t else s.redrawn t w.rect.touches

/-- WRITE_CELLS and FILL_CELLS by the owner or a writer, cell by cell; a deferred window's change is not
composed. -/
def Obligations.ContentIsWritten : Prop :=
  ∀ (s : State) (p : PortId) (tag window row col : Byte) (w : Window), s.serves p →
    s.windows[windowOf window] = some w → w.working.length = w.area →
    (w.owner = p ∨ w.writers.getLsbD p.val = true) →
    let start := row.toNat * w.width + col.toNat
    let writes := fun (c : Instr) (rc : RequestCode) (value : Nat → CellValue → CellValue) =>
      ∃ t v, exec c s = .next t ∧ s.answers t p tag rc .ok [] ∧
        t.windows = s.windows.set (windowOf window) (some { w with working := v }) ∧
        v.length = w.area ∧
        (∀ (k : Nat) (x : CellValue), w.working[k]? = some x → v[k]? = some (value k x)) ∧
        (({ s with windows := t.windows } : State).answered p tag rc .ok []).drawnFrom t ∧
        (w.published = none → s.redrawn t w.rect.touches) ∧
        (w.published ≠ none → t = { s with windows := t.windows, ports := t.ports } ∧ s.undrawn t)
    (∀ cells : List Byte, cellsLengthOk cells = true → writeCellsOk window row col cells = true →
      row.toNat < w.height → col.toNat < w.width → start + cells.length / 2 ≤ w.area →
      writes (.writeCells p tag window row col cells) .writeCells fun k x =>
        if start ≤ k ∧ k < start + cells.length / 2
        then cellOf (cells.getD (2 * (k - start)) 0) (cells.getD (2 * (k - start) + 1) 0) else x) ∧
    (∀ height width glyph attr : Byte, fillCellsOk window row col height width attr = true →
      row.toNat + height.toNat ≤ w.height → col.toNat + width.toNat ≤ w.width →
      writes (.fillCells p tag window row col height width glyph attr) .fillCells fun k x =>
        if row.toNat ≤ k / w.width ∧ k / w.width < row.toNat + height.toNat ∧
          col.toNat ≤ k % w.width ∧ k % w.width < col.toNat + width.toNat
        then cellOf glyph attr else x)

/-- FLUSH by the owner or a writer: a deferred window's working content becomes what it composes; a window
that is not deferred is left. -/
def Obligations.FlushPublishes : Prop :=
  ∀ (s : State) (p : PortId) (tag window : Byte) (w : Window), s.serves p → upTo 15 window = true →
    s.windows[windowOf window] = some w → (w.owner = p ∨ w.writers.getLsbD p.val = true) →
    (w.published = none → exec (.flush p tag window) s = .next (s.modifyPort p fun u =>
      { u with responses := u.responses ++ [⟨true, tag, 23, .ok, []⟩] }).finish) ∧
    (w.published ≠ none → ∃ t, exec (.flush p tag window) s = .next t ∧ s.answers t p tag .flush .ok [] ∧
      t.windows = s.windows.set (windowOf window) (some { w with published := some w.working }) ∧
      (({ s with windows := t.windows } : State).answered p tag .flush .ok []).drawnFrom t ∧
      s.redrawn t w.rect.touches)

/-- READ_CELLS and LIST_ALERTS: their results, byte by byte, and that they change nothing else. -/
def Obligations.ReadsAnswerAndChangeNothing : Prop :=
  ∀ (s : State) (p : PortId) (tag : Byte), s.serves p →
    (∀ (window row col count : Byte) (w : Window), readCellsOk window row col count = true →
      s.windows[windowOf window] = some w → row.toNat < w.height → col.toNat < w.width →
      row.toNat * w.width + col.toNat + count.toNat ≤ w.area →
      exec (.readCells p tag window row col count) s = .next (s.modifyPort p fun u => { u with
        responses := u.responses ++ [⟨true, tag, 22, .ok,
          (((w.working.drop (row.toNat * w.width + col.toNat)).take count.toNat).map fun c =>
            [c.glyph, (if c.blink then 1 else 0) + if c.emphasis = .inverse then 2 else 0]).flatten⟩] }).finish) ∧
    ∀ start : Byte, start.toNat ≤ 37 → ∃ listed : List Alert,
      exec (.listAlerts p tag start) s = .next (s.modifyPort p fun u => { u with
        responses := u.responses ++ [⟨true, tag, 53, .ok,
          [byteOf s.alerts.length, start, start + byteOf listed.length]
            ++ (listed.map Alert.image).flatten⟩] }).finish ∧
      listed <+: s.alerts.drop start.toNat ∧ listed.length ≤ 2 ∧
      (start.toNat < s.alerts.length → listed ≠ []) ∧
      (∀ a b, [a, b] <+: s.alerts.drop start.toNat → (listed.length = 2 ↔
        4 + 3 + a.image.length + b.image.length ≤ 112)) ∧
      ∀ a : Alert, a.image =
        [sourceNumber a.source, a.code, a.area, a.cls, severityNumber a.severity, stageNumber a.state.stage,
         (if a.silenced then 1 else 0) + (if a.shelved = none then 0 else 2),
         (match a.lamp with
          | some l => byteOf l.val
          | none => 255),
         (match a.tone with
          | some n => byteOf n.val
          | none => 255),
         byteOf a.occurrences,
         (match a.state with
          | .activeAck b _ => ackerNumber (some b)
          | _ => 255)]
        ++ (stampBytes ⟨a.shelved.getD 0, 0⟩).take 4 ++ stampBytes a.raisedAt
        ++ (match a.state with
          | .activeUnack => [0, 0, 0, 0, 0]
          | .activeAck _ c => stampBytes c
          | .clearedUnack c => stampBytes c)
        ++ [byteOf a.message.length] ++ a.message

/-! ### Drive and rail -/

/-- What a stale-tile report does to a tile record; and what composition is: the five sources of a cell in
their order, the highest visible window, the blink phase, the eight cells of a tile, and when it is stale. -/
def Obligations.StaleTileReports : Prop :=
  (∀ (r : TileRec) (stamp : Stamp),
    (r.state = .settled → r.report stamp true = { r with state := .pending stamp } ∧
      r.report stamp false = r) ∧
    (∀ since, r.state = .pending since → r.report stamp true = r ∧
      (r.fullDue = false → r.report stamp false = { r with state := .settled }) ∧
      (r.fullDue = true → r.report stamp false = r)) ∧
    (r.state = .driving → ∀ stale, r.report stamp stale = r) ∧
    (∀ since, r.state = .unknown since → ∀ stale, r.report stamp stale = r)) ∧
  (∀ (s : State) (row col : Nat),
    let test := s.keys.test.held || s.remoteTest
    (test = true → s.shows row col ⟨127, false, .normal⟩) ∧
    (test = false → s.blank = true → s.shows row col ⟨32, false, .normal⟩) ∧
    (test = false → s.blank = false → s.bannerRecords ≠ [] → row < s.bandHeight →
      ∃ b, bandOf s.alerts s.bandHeight = some b ∧ s.shows row col (b.cell row col)) ∧
    (test = false → s.blank = false → s.bannerRecords = [] ∨ s.bandHeight ≤ row →
      (∀ (i : WindowId) (w : Window) (c : CellValue), s.windows[i] = some w → w.visible = true →
        w.rect.holds row col = true →
        (∀ (j : WindowId) (v : Window), j ≠ i → s.windows[j] = some v → v.visible = true →
          v.rect.holds row col = true → v.level < w.level) →
        (w.published.getD w.working)[(row - w.row) * w.width + (col - w.col)]? = some c →
        s.shows row col c) ∧
      ((∀ (i : WindowId) (w : Window), s.windows[i] = some w → w.visible = true →
        w.rect.holds row col = false) → s.shows row col ⟨32, false, .normal⟩))) ∧
  ∀ (s : State) (n : TileId),
    (∀ (k : Nat) (h : k < 8), (s.view.tile n)[k] = s.view.composed (n.val / 5) (8 * (n.val % 5) + k)) ∧
    (tileStale s.view s.panel n = true ↔
      ∃ (k : Nat) (h : k < 8), s.panel[n][k] ≠ some (s.view.composed (n.val / 5) (8 * (n.val % 5) + k)))

/-- JOB_START: the first free engine takes the waiting tile of lowest class, then oldest stamp, then lowest
number, with its snapshot and its waveform. (The arbiter acting at once is log 4.) The class of a tile. -/
def Obligations.JobStartsOnTheChosenTile : Prop :=
  (∀ (s : State) (n : TileId),
    let inBand := s.bannerRecords ≠ [] ∧ s.keys.test.held = false ∧ s.remoteTest = false ∧ s.blank = false ∧
      n.val / 5 < s.bandHeight
    (inBand → s.tileClass n = 1) ∧
    (¬inBand → ((∃ a, s.tiles[n].state = .unknown a) → s.tileClass n = 2) ∧
      ((∀ a, s.tiles[n].state ≠ .unknown a) → s.tileClass n = 3))) ∧
  ∀ (s : State) (e : EngineId) (n : TileId) (a : Stamp), s.railOn = true →
    s.engines[e] = none → (∀ d < e, s.engines[d] ≠ none) → s.nextTile n a →
    exec .jobStart s = .next ({ s with
      engines := s.engines.set e (some (s.jobFor n a))
      tiles := s.tiles.set n { s.tiles[n] with state := .driving }
      rail := { s.rail with state := .on none } } : State).finish

/-- JOB_COMPLETION: panel values, counts, the tile's new state, the waits it settles and those that go on;
the engine is free, the arbiter then hands the free engines to the tiles it chooses, and the hold timer starts
where no tile waits and no engine is busy. An engine whose frames are not over completes nothing: the model's
choice (log 3). -/
def Obligations.JobCompletionEffects : Prop :=
  ∀ (s : State) (e : EngineId) (j : Job), s.engines[e] = some j →
    (0 < j.frames → exec (.jobCompletion e) s = .next s.finish) ∧
    (j.frames = 0 → s.railOn = true → ∃ t, exec (.jobCompletion e) s = .next t ∧
      t.panel = s.panel.set j.tile (known j.snapshot) ∧
      (let stale := decide (t.panel[j.tile] ≠ known (s.view.tile j.tile))
       let count := if j.waveform = .fullDrive then 0 else s.tiles[j.tile].partialCount + 1
       let due := if j.waveform = .fullDrive then false else s.tiles[j.tile].fullDue
       let r : TileRec := ⟨if stale || due then .pending s.now else .settled, count, due⟩
       (t.tiles[j.tile] = r ∨ t.tiles[j.tile] = { r with state := .driving }) ∧
       ({ s with
        panel := t.panel
        engines := s.engines.set e none
        tiles := s.tiles.set j.tile r } : State).arbitered t ∧
       ∀ (q : PortId) (v : Wait) (w : Window), s.ports[q].wait = some v → s.windows[v.window] = some w →
        w.rect.touches j.tile = true →
        if (stale || due) = false ∧ ∀ n : TileId, n ≠ j.tile → w.rect.touches n = true →
          s.tiles[n].state = .settled
        then t.ports[q].wait = none ∧
          t.ports[q].responses = s.ports[q].responses ++ [⟨true, v.tag, 7, .ok, []⟩]
        else t.ports[q].wait = some v) ∧
      (∀ (q : PortId) (v : Wait), s.ports[q].wait = some v →
        (∀ w, s.windows[v.window] = some w → w.rect.touches j.tile = false) →
        t.ports[q].wait = some v ∧ t.ports[q].responses = s.ports[q].responses) ∧
      (∀ n : TileId, n ≠ j.tile → s.tileKept t n) ∧ t.engineTaken ∧
      (∀ d : EngineId, d ≠ e → s.engines[d] ≠ none → t.engines[d] = s.engines[d]) ∧
      (∀ h, s.rail.state = .on h → t.rail = { s.rail with state := .on (t.holdAfter h) }) ∧
      s.told { s with ports := t.ports } [] ∧
      t = { s with
        panel := t.panel, tiles := t.tiles, engines := t.engines, rail := t.rail, ports := t.ports })

/-- FULL_REFRESH and FULL_REFRESH_EXPIRY: which tiles are marked for a FULL drive, what a mark does, that the
tiles not marked stand, and the drive's answer. An expiry that is not due changes nothing: the model's choice
(log 3). -/
def Obligations.FullRefreshMarks : Prop :=
  ∀ s : State,
    let mark := fun (r : TileRec) =>
      (⟨if r.state = .settled then .pending s.now else r.state, r.partialCount, true⟩ : TileRec)
    let marks := fun (u t : State) (which : TileId → Bool) =>
      let marked := Vector.ofFn fun n : TileId => if which n then mark s.tiles[n] else s.tiles[n]
      ({ u with tiles := marked } : State).drawnFrom t ∧ u.drives t u.alerts marked ∧
      (∀ n : TileId, which n = true →
        t.tiles[n] = mark s.tiles[n] ∨ t.tiles[n] = { mark s.tiles[n] with state := .driving }) ∧
      (¬s.risesAtOnce → ∀ n : TileId, which n = false → s.tileKept t n)
    (∀ (p : PortId) (tag : Byte), s.serves p → s.supervisor = some p →
      (∀ window : Byte, upTo 15 window = true →
        ∃ t, exec (.fullRefresh p tag 0 window) s = .next t ∧ s.answers t p tag .fullRefresh .ok [] ∧
          marks (s.answered p tag .fullRefresh .ok []) t fun _ => true) ∧
      ∀ (window : Byte) (w : Window), upTo 15 window = true → s.windows[windowOf window] = some w →
        ∃ t, exec (.fullRefresh p tag 1 window) s = .next t ∧ s.answers t p tag .fullRefresh .ok [] ∧
          marks (s.answered p tag .fullRefresh .ok []) t w.rect.touches) ∧
    (s.refreshPeriod ≠ 0 → s.refreshPeriod * 60 ≤ s.refreshCount →
      ∃ t, exec .fullRefreshExpiry s = .next t ∧
        marks { s with refreshCount := 0 } t fun n => decide (1 ≤ s.tiles[n].partialCount)) ∧
    (s.refreshPeriod = 0 ∨ s.refreshCount < s.refreshPeriod * 60 →
      exec .fullRefreshExpiry s = .next s.finish)

/-- POWER_GOOD_ASSERTED: in RISING the rail reaches ON. POWER_GOOD_LOST: in ON every job is abandoned, its
tile UNKNOWN, the rail in FAULT with one attempt counted, and DRIVE_FAULT raised with its notice. In other
states only the input's level changes. -/
def Obligations.PowerGoodChanges : Prop :=
  (∀ s : State,
    (∀ n, s.rail.state = .rising n → ∃ t, exec .powerGoodAsserted s = .next t ∧ t.powerGood = true ∧
      ({ s with powerGood := true } : State).risen t) ∧
    ((∀ n, s.rail.state ≠ .rising n) →
      exec .powerGoodAsserted s = .next ({ s with powerGood := true } : State).finish)) ∧
  ∀ s : State,
    (s.railOn = false → exec .powerGoodLost s = .next ({ s with powerGood := false } : State).finish) ∧
    (s.railOn = true → ∃ t, exec .powerGoodLost s = .next t ∧
      t.rail = ⟨.fault (some 320), 1, s.rail.holdSetting⟩ ∧ (∀ e : EngineId, t.engines[e] = none) ∧
      (∀ n : TileId, if ∃ (e : EngineId) (j : Job), s.engines[e] = some j ∧ j.tile = n
        then t.panel[n] = unknownCells ∧ t.tiles[n] = { s.tiles[n] with state := .unknown s.now }
        else t.panel[n] = s.panel[n] ∧ t.tiles[n] = (s.reportedTiles t bandRows)[n]) ∧
      t.record .system driveFaultCode = some (afterRaise s.now .system driveFaultCode
        ⟨255, 255, .warning, some 15, none, driveFaultMessage⟩ (s.record .system driveFaultCode)) ∧
      s.keepsRecords t ∧ (s.waitsFollow t fun _ w => w.settles s.tiles t.tiles) ∧
      s.told { s with ports := t.ports } [raiseNotice s.now .system driveFaultCode
        ⟨255, 255, .warning, some 15, none, driveFaultMessage⟩ (s.record .system driveFaultCode)] ∧
      (s.soundOk = true → s.hears t) ∧
      t = { s with
        powerGood := false, panel := t.panel, tiles := t.tiles, engines := t.engines, rail := t.rail,
        alerts := t.alerts, chimes := t.chimes, pattern := t.pattern, ports := t.ports })

/-- RISE_TIMER_EXPIRY: a failed attempt is counted, the third locks the rail, the first of a series raises
DRIVE_FAULT with its notice. A timer that is not over does nothing: the model's choice (log 3). -/
def Obligations.RiseTimerExpiryEffects : Prop :=
  ∀ s : State,
    driveFaultCode = 4 ∧
    driveFaultMessage = [80, 65, 78, 69, 76, 32, 68, 82, 73, 86, 69, 32, 70, 65, 85, 76, 84] ∧
    (s.rail.state ≠ .rising 0 → exec .riseTimerExpiry s = .next s.finish) ∧
    (s.rail.state = .rising 0 → 1 ≤ s.rail.attempts → exec .riseTimerExpiry s = .next ({ s with
      rail := { s.rail with
        state := .fault (if s.rail.attempts + 1 < 3 then some 320 else none)
        attempts := s.rail.attempts + 1 } } : State).finish) ∧
    (s.rail.state = .rising 0 → s.rail.attempts = 0 → ∃ t, exec .riseTimerExpiry s = .next t ∧
      t.rail = ⟨.fault (some 320), 1, s.rail.holdSetting⟩ ∧
      t.record .system driveFaultCode = some (afterRaise s.now .system driveFaultCode
        ⟨255, 255, .warning, some 15, none, driveFaultMessage⟩ (s.record .system driveFaultCode)) ∧
      s.keepsRecords t ∧ t.engines = s.engines ∧ ({ s with rail := t.rail } : State).relisted t ∧
      ({ s with rail := t.rail } : State).listedFrom s [raiseNotice s.now .system driveFaultCode
        ⟨255, 255, .warning, some 15, none, driveFaultMessage⟩ (s.record .system driveFaultCode)] t)

/-- The hold, fall and retry timers, and CLEAR_DRIVE_FAULT: from ON to FALLING, from FALLING to OFF and on to
a rise where a tile waits, from FAULT to a rise, and from a locked FAULT to OFF and on. The drive-supply enable is
asserted in RISING and ON alone. A timer that is not at its end does nothing: the model's choice (log 3). -/
def Obligations.RailLeavesItsStates : Prop :=
  ∀ s : State,
    (s.enable = true ↔ (∃ n, s.rail.state = .rising n) ∨ ∃ h, s.rail.state = .on h) ∧
    (s.rail.state ≠ .on (some 0) → exec .holdTimerExpiry s = .next s.finish) ∧
    (s.rail.state = .on (some 0) → exec .holdTimerExpiry s = .next ({ s with
      rail := { s.rail with state := .falling 2 } } : State).finish) ∧
    (s.rail.state ≠ .falling 0 → exec .fallTimerExpiry s = .next s.finish) ∧
    (s.rail.state = .falling 0 → s.anyWaiting = false → exec .fallTimerExpiry s = .next ({ s with
      rail := { s.rail with state := .off } } : State).finish) ∧
    (s.rail.state = .falling 0 → s.anyWaiting = true →
      ∃ t, exec .fallTimerExpiry s = .next t ∧ s.risen t) ∧
    (s.rail.state ≠ .fault (some 0) → exec .retryTimerExpiry s = .next s.finish) ∧
    (s.rail.state = .fault (some 0) → ∃ t, exec .retryTimerExpiry s = .next t ∧ s.risen t) ∧
    ∀ (p : PortId) (tag : Byte), s.serves p → s.supervisor = some p →
      let locked := (∃ r, s.rail.state = .fault r) ∧ s.rail.attempts = 3
      let ok := fun u : State => u.modifyPort p fun v =>
        { v with responses := v.responses ++ [⟨true, tag, 35, .ok, []⟩] }
      (¬locked → exec (.clearDriveFault p tag) s = .next (ok s).finish) ∧
      (locked → s.anyWaiting = false → exec (.clearDriveFault p tag) s = .next (ok { s with
        rail := ⟨.off, 0, s.rail.holdSetting⟩ }).finish) ∧
      (locked → s.anyWaiting = true → ∃ t, exec (.clearDriveFault p tag) s = .next t ∧
        s.answers t p tag .clearDriveFault .ok [] ∧
        (ok { s with rail := ⟨.off, 0, s.rail.holdSetting⟩ }).risen t)

/-! ### Alerts -/

/-- An accepted RAISE_ALERT: the record as a new raise or a re-raise makes it, its response and notice, and
every other record. The position answered is the one the raise left, before a rail that reaches ON at the same
event removes DRIVE_FAULT: the model's choice (log 23). -/
def Obligations.RaiseAlertRaises : Prop :=
  ∀ (s : State) (p : PortId) (tag code area cls severity lamp tone : Byte) (message : List Byte),
    s.serves p → messageLengthOk message = true → raiseAlertOk severity lamp tone = true →
    (s.record (.port p) code ≠ none ∨ portCount s.alerts < 32) →
    let x : RaiseArgs := ⟨area, cls, severityOf severity, lampOf lamp, toneOrAbsent tone, message⟩
    let a := afterRaise s.now (.port p) code x (s.record (.port p) code)
    let results := [byteOf (s.alerts.findIdx fun b => b.isFor (.port p) code), stageNumber a.state.stage]
    let u := s.answered p tag .raiseAlert .ok results
    ∃ t, exec (.raiseAlert p tag code area cls severity lamp tone message) s = .next t ∧
      t.record (.port p) code = some a ∧
      s.answers t p tag .raiseAlert .ok results ∧
      (¬s.risesAtOnce → t.alerts.map (fun b => (b.source, b.code)) =
        s.alerts.map (fun b => (b.source, b.code)) ++
          if s.record (.port p) code = none then [(.port p, code)] else []) ∧
      s.keepsRecordsBut t [(.port p, code)] ∧
      u.listedFrom s [raiseNotice s.now (.port p) code x (s.record (.port p) code)] t ∧ s.relisted t

/-- RAISE_ALERT of a new condition with 32 port records present: LIST_FULL, and LIST_OVERFLOW raised with its
notice. -/
def Obligations.RaiseAlertListFull : Prop :=
  ∀ (s : State) (p : PortId) (tag code area cls severity lamp tone : Byte) (message : List Byte),
    s.serves p → messageLengthOk message = true → raiseAlertOk severity lamp tone = true →
    s.record (.port p) code = none → 32 ≤ portCount s.alerts →
    listOverflowCode = 5 ∧ listFullMessage = [65, 76, 69, 82, 84, 32, 76, 73, 83, 84, 32, 70, 85, 76, 76] ∧
    ∃ t, exec (.raiseAlert p tag code area cls severity lamp tone message) s = .next t ∧
      s.answers t p tag .raiseAlert .listFull [] ∧
      t.record .system listOverflowCode = some (afterRaise s.now .system listOverflowCode
        ⟨255, 255, .warning, some 15, none, listFullMessage⟩ (s.record .system listOverflowCode)) ∧
      s.keepsRecordsBut t [(.system, listOverflowCode)] ∧
      (s.answered p tag .raiseAlert .listFull []).listedFrom s [raiseNotice s.now .system listOverflowCode
        ⟨255, 255, .warning, some 15, none, listFullMessage⟩ (s.record .system listOverflowCode)] t ∧
      s.relisted t

/-- CLEAR_ALERT of a port's own record: ringback, removal, or nothing; the outcome in the response; what
LIST_OVERFLOW does after it; the notices. -/
def Obligations.ClearAlertClears : Prop :=
  ∀ (s : State) (p : PortId) (tag code : Byte) (a : Alert), s.serves p →
    s.record (.port p) code = some a →
    let after := afterClear s.now (some a)
    let u := s.answered p tag .clearAlert .ok [if after.isSome then 2 else 3]
    ∃ t, exec (.clearAlert p tag code) s = .next t ∧ t.record (.port p) code = after ∧
      s.answers t p tag .clearAlert .ok [if after.isSome then 2 else 3] ∧ s.overflowFollows t ∧
      s.keepsRecordsBut t [(.port p, code), (.system, listOverflowCode)] ∧
      u.listedFrom s (clearNotices s.now (some a) ++ s.overflowNotices t) t ∧ s.relisted t

/-- ACK_ALERT by the record's own port, or by the supervisor: acknowledgement, removal from ringback, or
nothing; the notices. The outcome answered is that of the acknowledgement, before a rail that reaches ON at the
same event removes DRIVE_FAULT: the model's choice (log 23). -/
def Obligations.AckAlertAcknowledges : Prop :=
  ∀ (s : State) (p : PortId) (tag source code : Byte) (a : Alert), s.serves p →
    sourceCodeOk source code = true → (sourceOf source = .port p ∨ s.supervisor = some p) →
    s.record (sourceOf source) code = some a →
    let after := afterAck (.port p) s.now (some a)
    let u := s.answered p tag .ackAlert .ok [if after.isSome then 1 else 3]
    ∃ t, exec (.ackAlert p tag source code) s = .next t ∧ s.makes t (sourceOf source) code after ∧
      s.answers t p tag .ackAlert .ok [if after.isSome then 1 else 3] ∧
      ((sourceOf source, code) ≠ (.system, listOverflowCode) → s.overflowFollows t) ∧
      s.keepsRecordsBut t [(sourceOf source, code), (.system, listOverflowCode)] ∧
      u.listedFrom s (ackNotices (.port p) s.now (some a) ++ s.overflowNotices t) t ∧ s.relisted t

/-- The refusals of the requests on a record: NOT_PERMITTED for another's record, NO_ALERT for one that is
not present. -/
def Obligations.RecordRequestRefusals : Prop :=
  ∀ (s : State) (p : PortId) (tag source code : Byte) (seconds : BitVec 16), s.serves p →
    sourceCodeOk source code = true → 1 ≤ seconds.toNat →
    let no := fun (rc : Byte) (st : Status) =>
      (Host.Outcome.next (s.refuse p tag rc st).finish : Host.Outcome State Fault Refusal)
    (s.record (.port p) code = none → exec (.clearAlert p tag code) s = no 49 .noAlert) ∧
    (sourceOf source ≠ .port p → s.supervisor ≠ some p →
      exec (.ackAlert p tag source code) s = no 50 .notPermitted) ∧
    (s.record (sourceOf source) code = none →
      ((sourceOf source = .port p ∨ s.supervisor = some p) →
        exec (.ackAlert p tag source code) s = no 50 .noAlert) ∧
      (s.supervisor = some p → exec (.shelveAlert p tag source code seconds) s = no 51 .noAlert ∧
        exec (.unshelveAlert p tag source code) s = no 52 .noAlert))

/-- SHELVE_ALERT and UNSHELVE_ALERT by the supervisor: the shelved field, the notice, and nothing else of
the list. -/
def Obligations.ShelvingRequests : Prop :=
  ∀ (s : State) (p : PortId) (tag source code : Byte) (seconds : BitVec 16) (a : Alert), s.serves p →
    s.supervisor = some p → sourceCodeOk source code = true →
    s.record (sourceOf source) code = some a →
    let key := (sourceOf source, code)
    let expiry := BitVec.ofNat 32 (min 4294967295 (s.time.seconds.toNat + seconds.toNat))
    (1 ≤ seconds.toNat → ∃ t, exec (.shelveAlert p tag source code seconds) s = .next t ∧
      s.answers t p tag .shelveAlert .ok [] ∧ s.makes t key.1 key.2 (some { a with shelved := some expiry }) ∧
      s.keepsRecordsBut t [key] ∧ s.relisted t ∧ (s.answered p tag .shelveAlert .ok []).listedFrom s
        [keptNotice .shelved s.now { a with shelved := some expiry }] t) ∧
    (a.shelved ≠ none → ∃ t, exec (.unshelveAlert p tag source code) s = .next t ∧
      s.answers t p tag .unshelveAlert .ok [] ∧ s.makes t key.1 key.2 (some { a with shelved := none }) ∧
      s.keepsRecordsBut t [key] ∧ s.relisted t ∧ (s.answered p tag .unshelveAlert .ok []).listedFrom s
        [keptNotice .unshelved s.now { a with shelved := none }] t) ∧
    (a.shelved = none → exec (.unshelveAlert p tag source code) s = .next (s.modifyPort p fun u =>
      { u with responses := u.responses ++ [⟨true, tag, 52, .ok, []⟩] }).finish)

/-- SHELVING_EXPIRY: every record whose expiry the seconds count has reached is unshelved, with its notice, in
list order, where a second event has made that due. Without that mark it does nothing: the model's choice (log 3,
with the mark of log 2). -/
def Obligations.ShelvingExpiryUnshelves : Prop :=
  ∀ s : State, s.alertsOk = true →
    (s.shelvingDue = false → exec .shelvingExpiry s = .next s.finish) ∧
    (s.shelvingDue = true → ∃ t, exec .shelvingExpiry s = .next t ∧
      s.recordsBecome t (fun a => match a.shelved with
        | some e => if e.toNat ≤ s.time.seconds.toNat then { a with shelved := none } else a
        | none => a) ∧
      ({ s with shelvingDue := false } : State).listedFrom s (s.alerts.flatMap (expiryNotices s.now)) t ∧
      s.relisted t)

/-! ### Lamps and sounder -/

/-- The state of each lamp, and when it is lit. -/
def Obligations.LampsFollowTheList : Prop :=
  (∀ (s : State) (l : LampId), s.lamp l =
    if s.keys.test.held = true ∨ s.remoteTest = true then .on
    else if ∃ a ∈ s.alerts, a.lamp = some l ∧ a.state = .activeUnack ∧ a.shelved = none then .flash
    else if ∃ a ∈ s.alerts, a.lamp = some l then .on else .off) ∧
  (∀ (s : State) (l : LampId), s.lampLit l =
    decide (s.lamp l = .on ∨ (s.lamp l = .flash ∧ s.time.phase = true))) ∧
  ∀ l : LampId, State.reset.lamp l = .off

/-- The frequency of a code, and what the output carries: the source that applies, and the sound of its entry
in an on period. What a choice of the source does to the pattern and to the chime queue. -/
def Obligations.CodesGiveFrequencies : Prop :=
  (∀ c : Byte, frequency c = 128000 / (c.toNat + 64)) ∧
  (∀ c d : Byte, c.toNat < d.toNat → frequency d < frequency c) ∧
  (∀ c d : Byte, frequency c = frequency d → c = d) ∧
  frequency 0 = 2000 ∧ frequency 64 = 1000 ∧ frequency 96 = 800 ∧ frequency 136 = 640 ∧
  frequency 192 = 500 ∧ frequency 255 = 128000 / 319 ∧
  (∀ s : State,
    (s.pattern = none → s.sounder = .silence) ∧
    ∀ pt : Pattern, s.pattern = some pt →
      let e := s.tones[pt.entry]
      let level : Int := ((e.amplitude : Int) - 15) * 3
      (∀ k, pt.phase = .on k →
        (e.amplitude = 0 → s.sounder = .silence) ∧
        (e.amplitude ≠ 0 → e.secondary = none → s.sounder = .one e.primary level) ∧
        (∀ c, e.amplitude ≠ 0 → e.secondary = some c → e.mix = .together →
          s.sounder = .two e.primary c (level - 6)) ∧
        ∀ c, e.amplitude ≠ 0 → e.secondary = some c → e.mix = .alternate →
          s.sounder = .one (if (pt.completed + 1) % 2 = 1 then e.primary else c) level) ∧
      ((∀ k, pt.phase ≠ .on k) → s.sounder = .silence)) ∧
  ∀ s : State,
    let candidates := ranked (s.alerts.filter fun a =>
      decide (a.state = .activeUnack ∧ a.silenced = false ∧ a.shelved = none))
    (s.keys.test.held = true ∨ s.remoteTest = true → s.selectSource = some (.test, 4)) ∧
    (s.keys.test.held = false → s.remoteTest = false →
      (∀ a l, candidates = a :: l → s.selectSource = some (.alert a.source a.code,
        a.tone.getD (match a.severity with
          | .advisory => 1
          | .caution => 2
          | .warning => 3))) ∧
      (candidates = [] → s.selectSource = s.chimes.head?.map fun c => (.chime, c))) ∧
    (s.selectSource = none → s.chooseSource = { s with pattern := none }) ∧
    ∀ src entry, s.selectSource = some (src, entry) →
      (∀ pt, s.pattern = some pt → pt.source = src → pt.entry = entry → s.chooseSource = s) ∧
      ((∀ pt, s.pattern = some pt → pt.source ≠ src ∨ pt.entry ≠ entry) → s.chooseSource = { s with
        chimes := if s.pattern.map Pattern.source = some .chime ∧ src ≠ .chime then s.chimes.tail else s.chimes
        pattern := some ⟨src, entry, .on s.tones[entry].onTicks, 0⟩ })

/-- PERIOD_END: the on period counted, the off period or the next on period begun, or the finite pattern
ended: a test ENDED, an alert silenced without a notice, a chime dropped. -/
def Obligations.PeriodEndEffects : Prop :=
  ∀ (s : State) (pt : Pattern), s.pattern = some pt →
    let t := s.tones[pt.entry]
    let goes := fun q : Pattern => exec .periodEnd s = .next ({ s with pattern := some q } : State).finish
    let ends := fun q : Pattern =>
      (pt.source = .test → goes { q with phase := .ended }) ∧
      (pt.source = .chime → s.panelTest = false → soundingAlert s.alerts = none →
        exec .periodEnd s = .next ({ s with
          chimes := s.chimes.tail
          pattern := s.chimes.tail.head?.map fun e => ⟨.chime, e, .on s.tones[e].onTicks, 0⟩ } : State).finish) ∧
      ∀ src code, pt.source = .alert src code → ∃ u, exec .periodEnd s = .next u ∧
        s.recordsBecome u (fun a => if a.source = src ∧ a.code = code ∧ a.state = .activeUnack
          then { a with silenced := true } else a) ∧ u.soundOk = true ∧
        ({ s with pattern := none } : State).listedFrom s [] u ∧ s.redrawn u bandRows
    let n := (pt.completed + 1) % 256
    (pt.phase = .on 0 →
      (t.offTicks ≠ 0 → goes { pt with
        completed := n
        phase := .off t.offTicks }) ∧
      (t.offTicks = 0 → t.repeats = 0 ∨ n ≠ t.repeats → goes { pt with
        completed := n
        phase := .on t.onTicks }) ∧
      (t.offTicks = 0 → t.repeats ≠ 0 → n = t.repeats → ends { pt with completed := n })) ∧
    (pt.phase = .off 0 →
      (t.repeats = 0 ∨ pt.completed ≠ t.repeats → goes { pt with phase := .on t.onTicks }) ∧
      (t.repeats ≠ 0 → pt.completed = t.repeats → ends pt))

/-- SET_TONE by the supervisor: the entry replaced, a pattern that plays it restarted. CHIME: a finite entry
joins the queue, and plays at once where nothing plays. -/
def Obligations.SounderRequests : Prop :=
  (∀ (s : State) (p : PortId) (tag entry primary present secondary mix amplitude onTicks offTicks repeats : Byte),
    s.serves p → s.supervisor = some p → setToneOk entry present mix amplitude onTicks = true →
    exec (.setTone p tag entry primary present secondary mix amplitude onTicks offTicks repeats) s =
      .next (({ s with
        tones := s.tones.set (toneOf entry) ⟨primary, if present = 1 then some secondary else none,
          if mix = 1 then .alternate else .together, amplitude.toNat, onTicks.toNat, offTicks.toNat,
          repeats.toNat⟩
        pattern := s.pattern.map fun q =>
          if q.entry = toneOf entry then ⟨q.source, q.entry, .on onTicks.toNat, 0⟩ else q } :
        State).modifyPort p fun u =>
          { u with responses := u.responses ++ [⟨true, tag, 65, .ok, []⟩] }).finish) ∧
  ∀ (s : State) (p : PortId) (tag tone : Byte), s.serves p → 1 ≤ tone.toNat → tone.toNat ≤ 7 →
    (s.tones[toneOf tone].repeats = 0 →
      exec (.chime p tag tone) s = .next (s.refuse p tag 66 .badValue).finish) ∧
    (s.tones[toneOf tone].repeats ≠ 0 → 4 ≤ s.chimes.length →
      exec (.chime p tag tone) s = .next (s.refuse p tag 66 .full).finish) ∧
    (s.tones[toneOf tone].repeats ≠ 0 → s.chimes.length < 4 → s.soundOk = true →
      exec (.chime p tag tone) s = .next (({ s with
        chimes := s.chimes ++ [toneOf tone]
        pattern := if s.pattern = none
          then some ⟨.chime, toneOf tone, .on s.tones[toneOf tone].onTicks, 0⟩ else s.pattern } :
        State).modifyPort p fun u =>
          { u with responses := u.responses ++ [⟨true, tag, 66, .ok, []⟩] }).finish)

/-! ### Overlays and keys -/

/-- SET_BANNER, BLANK and PANEL_TEST by the supervisor: a value that is held already changes nothing; a new
one re-evaluates the band's tiles, or all; the sounder chooses again at a change of panel test. The cells of
the band: row by row the selected records, with the count of those not shown. -/
def Obligations.OverlayRequests : Prop :=
  (∀ (s : State) (row col : Nat), s.keys.test.held = false → s.remoteTest = false → s.blank = false →
    s.bannerRecords ≠ [] → row < s.bandHeight → s.bandHeight ≤ 2 → col < 40 →
    let hidden := s.bannerRecords.length - s.bandHeight
    (∀ a, s.bannerRecords[row]? = some a → col < 36 →
      let tag : List Byte := match a.severity with
        | .advisory => [65, 68, 86]
        | .caution => [67, 65, 85]
        | .warning => [87, 82, 78]
      let glyph := (tag ++ [32] ++ a.message).getD col 32
      s.shows row col (if a.state.stage = .clearedUnack then ⟨glyph, false, .inverse⟩
        else ⟨glyph, true, .normal⟩)) ∧
    (s.bannerRecords[row]? = none ∧ col < 37 ∨ col = 36 ∨ (37 ≤ col ∧ (row + 1 < s.bandHeight ∨ hidden = 0)) →
      s.shows row col ⟨32, false, .normal⟩) ∧
    (37 ≤ col → row + 1 = s.bandHeight → 1 ≤ hidden → s.shows row col
      ⟨if col = 37 then 43 else if col = 38 then byteOf (48 + hidden / 10) else byteOf (48 + hidden % 10),
        false, .normal⟩)) ∧
  ∀ (s : State) (p : PortId) (tag : Byte), s.serves p → s.supervisor = some p →
    let ok := fun (u : State) (rc : Byte) => (u.modifyPort p fun v =>
      { v with responses := v.responses ++ [⟨true, tag, rc, .ok, []⟩] }).finish
    (∀ height : Byte, height.toNat = 1 ∨ height.toNat = 2 →
      (s.bandHeight = height.toNat → exec (.setBanner p tag height) s = .next (ok s 64)) ∧
      (s.bandHeight ≠ height.toNat → ∃ t, exec (.setBanner p tag height) s = .next t ∧
        s.answers t p tag .setBanner .ok [] ∧
        (({ s with bandHeight := height.toNat } : State).answered p tag .setBanner .ok []).drawnFrom t ∧
        s.redrawn t bandRows)) ∧
    (∀ setting : Byte, setting = 0 ∨ setting = 1 →
      (s.blank = decide (setting = 1) → exec (.blank p tag setting) s = .next (ok s 68)) ∧
      (s.blank ≠ decide (setting = 1) → ∃ t, exec (.blank p tag setting) s = .next t ∧
        s.answers t p tag .blank .ok [] ∧
        (({ s with blank := decide (setting = 1) } : State).answered p tag .blank .ok []).drawnFrom t ∧
        s.redrawn t fun _ => true) ∧
      (s.keys.test.held = true ∨ s.remoteTest = decide (setting = 1) →
        exec (.panelTest p tag setting) s = .next (ok { s with remoteTest := decide (setting = 1) } 67)) ∧
      (s.keys.test.held = false → s.remoteTest ≠ decide (setting = 1) →
        ∃ t, exec (.panelTest p tag setting) s = .next t ∧ s.answers t p tag .panelTest .ok [] ∧
          (({ s with remoteTest := decide (setting = 1) } : State).answered p tag .panelTest .ok
            []).listedFrom s [] t ∧ t.soundOk = true ∧
          s.keepsRecords t ∧ s.redrawn t fun _ => true))

/-- ACK_PRESS: the record the banner selects first is acknowledged by KEY; the press reaches no record when
none is eligible. A press that is not due changes nothing: the model's choice (log 3). -/
def Obligations.AckPressAcknowledgesTheFirst : Prop :=
  ∀ s : State,
    let taken : State := { s with keys := { s.keys with
      ack := ⟨true, s.keys.ack.pressed, 0⟩
      holdTicks := 0
      holdDue := false } }
    (s.keys.ack.held = true ∨ s.keys.ack.debounce < 4 → exec .ackPress s = .next s.finish) ∧
    (s.keys.ack.held = false → 4 ≤ s.keys.ack.debounce →
      ((∀ a ∈ s.alerts, a.eligible = false) → exec .ackPress s = .next taken.finish) ∧
      ∀ (pre post : List Alert) (a : Alert), s.alerts = pre ++ a :: post → a.eligible = true →
        (∀ b ∈ pre, b.eligible = true → b.severity.rank < a.severity.rank) →
        (∀ b ∈ post, b.eligible = true → b.severity.rank ≤ a.severity.rank) →
        s.record a.source a.code = some a →
        ∃ t, exec .ackPress s = .next t ∧
          s.makes t a.source a.code (afterAck .key s.now (some a)) ∧
          ((a.source, a.code) ≠ (.system, listOverflowCode) → s.overflowFollows t) ∧
          s.keepsRecordsBut t [(a.source, a.code), (.system, listOverflowCode)] ∧
          taken.listedFrom s (ackNotices .key s.now (some a) ++ s.overflowNotices t) t ∧ s.relisted t)

/-- ACK_HOLD: every eligible record is acknowledged by KEY, in list order, when the hold has reached its
length, and LIST_OVERFLOW is then cleared where 28 or fewer port records are left; the notices. Without that
mark it does nothing: the model's choice (log 3, with the mark of log 2). -/
def Obligations.AckHoldAcknowledgesAll : Prop :=
  ∀ s : State, s.alertsOk = true →
    (s.keys.holdDue = false → exec .ackHold s = .next s.finish) ∧
    (s.keys.holdDue = true → ∃ t, exec .ackHold s = .next t ∧
      (∀ src code, (src, code) ≠ (.system, listOverflowCode) →
        s.makes t src code ((s.record src code).bind fun a =>
          if a.eligible = true then afterAck .key s.now (some a) else some a)) ∧
      (let r := (s.record .system listOverflowCode).bind fun a =>
        if a.eligible = true then afterAck .key s.now (some a) else some a
       let falls := portCount t.alerts < portCount s.alerts ∧ portCount t.alerts ≤ 28
       t.record .system listOverflowCode = (if falls then afterClear s.now r else r) ∧
       ({ s with keys := { s.keys with holdDue := false } } : State).listedFrom s
        (((s.alerts.filter Alert.eligible).flatMap fun a => ackNotices .key s.now (some a)) ++
          if falls then clearNotices s.now r else []) t) ∧ s.relisted t)

/-- SILENCE_PRESS: the chime queue emptied, every ACTIVE_UNACK record silenced without a notice, the source
chosen again. A press that is not due changes nothing: the model's choice (log 3). -/
def Obligations.SilencePressSilences : Prop :=
  ∀ s : State,
    (s.keys.silence.held = true ∨ s.keys.silence.debounce < 4 → exec .silencePress s = .next s.finish) ∧
    (s.keys.silence.held = false → 4 ≤ s.keys.silence.debounce → ∃ t, exec .silencePress s = .next t ∧
      s.recordsBecome t (fun a => if a.state = .activeUnack then { a with silenced := true } else a) ∧
      t.chimes = [] ∧ t.soundOk = true ∧
      ({ s with
        keys := { s.keys with silence := ⟨true, s.keys.silence.pressed, 0⟩ }
        chimes := [] } : State).listedFrom s [] t ∧ s.redrawn t bandRows)

/-- The releases of ACK and SILENCE, and both changes of TEST: the key record, the hold ticks, and the
overlay with the sounder's choice where panel test active changes. What is not due changes nothing: the
model's choice (log 3). -/
def Obligations.KeyReleasesAndTest : Prop :=
  ∀ s : State,
    (exec .ackRelease s = .next (if s.keys.ack.held = true ∧ 4 ≤ s.keys.ack.debounce then
      { s with keys := { s.keys with
        ack := ⟨false, s.keys.ack.pressed, 0⟩
        holdTicks := 0
        holdDue := false } } else s).finish) ∧
    (exec .silenceRelease s = .next (if s.keys.silence.held = true ∧ 4 ≤ s.keys.silence.debounce then
      { s with keys := { s.keys with silence := ⟨false, s.keys.silence.pressed, 0⟩ } } else s).finish) ∧
    (s.keys.test.held = true ∨ s.keys.test.debounce < 4 → exec .testPress s = .next s.finish) ∧
    (s.keys.test.held = false ∨ s.keys.test.debounce < 4 → exec .testRelease s = .next s.finish) ∧
    ∀ c : Instr, (c = .testPress ∧ s.keys.test.held = false) ∨ (c = .testRelease ∧ s.keys.test.held = true) →
      4 ≤ s.keys.test.debounce →
      let u : State := { s with keys := { s.keys with test := ⟨!s.keys.test.held, s.keys.test.pressed, 0⟩ } }
      (s.remoteTest = true → exec c s = .next u.finish) ∧
      (s.remoteTest = false → ∃ t, exec c s = .next t ∧ u.listedFrom s [] t ∧ t.soundOk = true ∧
        s.keepsRecords t ∧ s.redrawn t fun _ => true)

/-! ### Time -/

/-- TICK_EVENT with nothing left due: the time, the engines' frames, the rail's timer, the pattern's period,
the keys' samples and the hold ticks each count one, and nothing else changes. What the last tick left due is
taken first, in an open order, until nothing is due: the model's choice (log 2). -/
def Obligations.TickCounts : Prop :=
  (∀ (s : State) (ack silence test : Bool), s.tonesOk = true → s.rail.ok = true →
    ∃ ds u, State.takesDue ds s u ∧ u.dueNow = [] ∧
      exec (.tickEvent ack silence test) s = exec (.tickEvent ack silence test) u) ∧
  ∀ (s : State) (ack silence test : Bool), s.dueNow = [] →
    let sampled := fun (k : KeyRecord) (level : Bool) =>
      (⟨k.held, level, if level = k.held then 0 else k.debounce + 1⟩ : KeyRecord)
    let counts := s.keys.ack.held = true ∧ s.keys.holdTicks < 128
    exec (.tickEvent ack silence test) s = .next ({ s with
      time := ⟨s.time.tick + 1, if s.time.tick = 63 then s.time.seconds + 1 else s.time.seconds,
        s.time.phase, decide (s.time.tick = 63), decide (s.time.tick = 63 ∨ s.time.tick = 31)⟩
      engines := s.engines.map fun e => e.map fun j => { j with frames := j.frames - 1 }
      rail := { s.rail with state := match s.rail.state with
        | .off => .off
        | .rising n => .rising (n - 1)
        | .on h => .on (h.map (· - 1))
        | .falling n => .falling (n - 1)
        | .fault r => .fault (r.map (· - 1)) }
      pattern := s.pattern.map fun q => { q with phase := match q.phase with
        | .on n => .on (n - 1)
        | .off n => .off (n - 1)
        | .ended => .ended }
      keys := ⟨sampled s.keys.ack ack, sampled s.keys.silence silence, sampled s.keys.test test,
        if counts then s.keys.holdTicks + 1 else s.keys.holdTicks,
        decide (counts ∧ s.keys.holdTicks = 127)⟩ } : State).finish

/-- SECOND_EVENT: the counts of seconds go up by one, and the shelvings are compared. BLINK_EVENT: the phase
toggles and the cells are re-evaluated. Each only where the tick has made one; otherwise nothing changes: the
model's choice (log 3, log 7). -/
def Obligations.SecondAndBlinkEvents : Prop :=
  ∀ s : State,
    (s.time.secondDue = false → exec .secondEvent s = .next s.finish) ∧
    (s.time.secondDue = true → exec .secondEvent s = .next ({ s with
      time := { s.time with secondDue := false }
      refreshCount := if s.refreshPeriod = 0 then 0 else s.refreshCount + 1
      shelvingDue := s.alerts.any fun a => match a.shelved with
        | some e => decide (e.toNat ≤ s.time.seconds.toNat)
        | none => false
      ports := s.ports.map fun u => { u with
        keepaliveCount := u.keepaliveCount.map (· + 1)
        wait := u.wait.map fun w => { w with count := w.count + 1 } } } : State).finish) ∧
    (s.time.blinkDue = false → exec .blinkEvent s = .next s.finish) ∧
    (s.time.blinkDue = true → ∃ t, exec .blinkEvent s = .next t ∧
      ({ s with time := ⟨s.time.tick, s.time.seconds, !s.time.phase, s.time.secondDue, false⟩ } :
        State).drawnFrom t ∧ s.redrawn t fun _ => true)

/-- SET_TIME by the supervisor with nothing left due: tick 0, the seconds, the phase ON, and the shelvings
whose expiry the new seconds have reached ended, with their notices in list order (after DRIVE_FAULT's
clearing, where the change of phase brings the rail to ON: the model's choice, log 24). The picture: the change of
phase, then the change of the list, each answered by the drive in turn (log 24). What the last tick left
due is taken first; where the port itself is lost by it, the request is gone with the port (R170, R187): the
model's choice (log 8). -/
def Obligations.SetTimeSets : Prop :=
  (∀ (s : State) (p : PortId) (tag : Byte) (seconds : BitVec 32), s.serves p → s.supervisor = some p →
    s.tonesOk = true → s.rail.ok = true → s.dueNow ≠ [] →
    ∃ ds u, State.takesDue ds s u ∧ u.dueNow = [] ∧
      exec (.setTime p tag seconds) s =
        if u.ports[p].state = .attached then exec (.setTime p tag seconds) u else .next u) ∧
  ∀ (s : State) (p : PortId) (tag : Byte) (seconds : BitVec 32), s.serves p → s.supervisor = some p →
    s.dueNow = [] → s.alertsOk = true →
    ∃ t, exec (.setTime p tag seconds) s = .next t ∧ s.answers t p tag .setTime .ok [] ∧
      t.time = ⟨0, seconds, true, false, false⟩ ∧
      s.recordsBecome t (fun a => match a.shelved with
        | some e => if e.toNat ≤ seconds.toNat then { a with shelved := none } else a
        | none => a) ∧
      (let u : State := { s with time := ⟨0, seconds, s.time.phase, false, false⟩ }
       let v : State := { s with time := t.time }
       ∃ a, (if s.time.phase = true then a = v else v.drawnTo a ∧ u.redrawn a fun _ => true) ∧ a.relisted t) ∧
      ∃ l, (l = s.alerts ∨ (s.time.phase = false ∧ s.risesAtOnce ∧ l = s.alerts.filterMap fun a =>
          if a.source = .system ∧ a.code = driveFaultCode then afterClear ⟨seconds, 0⟩ (some a) else some a)) ∧
        (({ s with time := t.time } : State).answered p tag .setTime .ok []).listedFrom s
          (l.flatMap (expiryNotices ⟨seconds, 0⟩)) t

/-! ### Invariants -/

/-- The laws that a step keeps without the help of any other: the blink phase follows the tick, the alert
list, the small ranges, the sounder's pattern and its queue. -/
def Obligations.EveryStepKeepsTheSmallLaws : Prop :=
  ∀ s t : State, step s = .next t →
    (s.time.ok = true → t.time.ok = true) ∧ (s.alertsOk = true → t.alertsOk = true) ∧
    (s.tonesOk = true → t.tonesOk = true) ∧ (s.bandOk = true → t.bandOk = true) ∧
    (s.soundOk = true → t.soundOk = true) ∧ (s.chimesOk = true → t.chimesOk = true)

/-- The windows stay within the panel, apart at each level, and within the pool. -/
def Obligations.EveryStepKeepsTheWindowTable : Prop :=
  ∀ s t : State, step s = .next t → s.windowsOk = true → s.levelsOk = true → s.poolOk = true →
    t.windowsOk = true ∧ t.levelsOk = true ∧ t.poolOk = true

/-- The Port Units keep their laws (keepalive count, queue capacities, buffer, waits), the supervisor is
ATTACHED, and every wait is on an OPEN window. -/
def Obligations.EveryStepKeepsThePortUnits : Prop :=
  ∀ s t : State, step s = .next t → s.portsOk = true → s.supervisorOk = true → s.waitsOk = true →
    t.portsOk = true ∧ t.supervisorOk = true ∧ t.waitsOk = true

/-- Tile records say what the panel and composition are, engines and tiles agree, and the rail follows the
waiting tiles. -/
def Obligations.EveryStepKeepsTheDrive : Prop :=
  ∀ s t : State, step s = .next t → s.bandOk = true → s.driveOk = true → s.tilesOk = true →
    s.railOk = true → t.driveOk = true ∧ t.tilesOk = true ∧ t.railOk = true

/-- Every law of Safety holds after a step that finds every one of them holding; among them, that a
full-refresh expiry is taken before the next second event (`State.secondOk`). -/
def Obligations.EveryStepKeepsEveryLaw : Prop :=
  ∀ s t : State, step s = .next t → s.ok = true → t.ok = true

end
end

