-- ==== Sys2Proof/Laws/Check.lean ====
section
/-!
SUPPORT. The check of R173 as division of polynomials over the field of two elements: one bit entering the
register multiplies by x, adds the bit at x^16, and subtracts a multiple of the generator.
-/

namespace Sys2Proof.Machine

open Polynomial

/-- The polynomial of a list of bits, highest coefficient first. -/
noncomputable def polyOf (l : List Bool) : Polynomial (ZMod 2) :=
  l.foldl (fun q b => q * X + if b then 1 else 0) 0

/-- The generator of R173. -/
noncomputable def generator : Polynomial (ZMod 2) := X ^ 16 + X ^ 12 + X ^ 5 + 1

/-- The register's bits, from the coefficient of x^15 to that of x^0. -/
def registerBits (r : BitVec 16) : List Bool := (List.range 16).map fun i => r.getLsbD (15 - i)

theorem polyOf_append_aux (l : List Bool) (q : Polynomial (ZMod 2)) :
    l.foldl (fun q b => q * X + if b then 1 else 0) q = q * X ^ l.length + polyOf l := by
  unfold polyOf
  induction l generalizing q with
  | nil => simp
  | cons b l ih =>
    rw [List.foldl_cons, List.foldl_cons, ih, ih (0 * X + _), List.length_cons]
    ring

theorem polyOf_append (l m : List Bool) : polyOf (l ++ m) = polyOf l * X ^ m.length + polyOf m := by
  conv_lhs => unfold polyOf
  rw [List.foldl_append, polyOf_append_aux]
  rfl

theorem polyOf_snoc (l : List Bool) (b : Bool) : polyOf (l ++ [b]) = polyOf l * X + if b then 1 else 0 := by
  simp [polyOf]

theorem registerBits_length (r : BitVec 16) : (registerBits r).length = 16 := by simp [registerBits]

/-- The register and the polynomial of its bits. -/
theorem polyOf_registerBits (r : BitVec 16) : polyOf (registerBits r) =
    ∑ k ∈ Finset.range 16, if r.getLsbD k then (X : Polynomial (ZMod 2)) ^ k else 0 := by
  have h : ∀ (n : ℕ) (f : ℕ → Bool), polyOf ((List.range n).map fun i => f (n - 1 - i)) =
      ∑ k ∈ Finset.range n, if f k then (X : Polynomial (ZMod 2)) ^ k else 0 := by
    intro n
    induction n with
    | zero => intro f; simp [polyOf]
    | succ n ih =>
      intro f
      rw [Finset.sum_range_succ']
      have := ih fun k => f (k + 1)
      have e : (List.range (n + 1)).map (fun i => f (n + 1 - 1 - i)) =
          (List.range n).map (fun i => f (n - 1 - i + 1)) ++ [f 0] := by
        rw [List.range_succ, List.map_append]
        congr 1
        · apply List.map_congr_left
          intro i hi
          have := List.mem_range.mp hi
          congr 1
          omega
        · simp
      rw [e, polyOf_snoc, this, Finset.sum_mul]
      congr 1
      · refine Finset.sum_congr rfl fun k _ => ?_
        split_ifs <;> simp [pow_succ]
  exact h 16 r.getLsbD

theorem ite_xor (f g : Bool) (p : Polynomial (ZMod 2)) :
    (if xor f g then p else 0) = (if f then p else 0) + if g then p else 0 := by
  have two : p + p = 0 := by
    rw [← two_mul, ← Polynomial.C_ofNat, show (OfNat.ofNat 2 : ZMod 2) = 0 from rfl, map_zero, zero_mul]
  cases f <;> cases g <;> simp [two]

/-- One step of the register (R173). -/
theorem crcStep_poly (r : BitVec 16) (b : Bool) : ∃ c : Polynomial (ZMod 2),
    polyOf (registerBits (crcStep r b)) + c * generator =
      polyOf (registerBits r) * X + if b then X ^ 16 else 0 := by
  have hx : ∀ k < 16, (crcStep r b).getLsbD k =
      xor (decide (0 < k) && r.getLsbD (k - 1))
        (xor (r.getLsbD 15) b && (decide (k = 0) || decide (k = 5) || decide (k = 12))) := by
    intro k hk
    unfold crcStep
    cases hc : xor (r.getLsbD 15) b <;> interval_cases k <;> simp
  refine ⟨if xor (r.getLsbD 15) b then 1 else 0, ?_⟩
  rw [polyOf_registerBits, polyOf_registerBits,
    Finset.sum_congr rfl fun k hk => by rw [hx k (Finset.mem_range.mp hk), ite_xor], Finset.sum_add_distrib]
  have hq : ∑ k ∈ Finset.range 16, (if (xor (r.getLsbD 15) b &&
      (decide (k = 0) || decide (k = 5) || decide (k = 12))) = true
      then (X : Polynomial (ZMod 2)) ^ k else 0) =
      (if xor (r.getLsbD 15) b then 1 else 0) * (1 + X ^ 5 + X ^ 12) := by
    cases xor (r.getLsbD 15) b <;> simp [Finset.sum_range_succ]
  rw [hq, Finset.sum_range_succ', Finset.sum_mul, Finset.sum_range_succ (n := 15), ite_xor]
  have hs : ∑ k ∈ Finset.range 15, (if (decide (0 < k + 1) && r.getLsbD (k + 1 - 1)) = true
      then (X : Polynomial (ZMod 2)) ^ (k + 1) else 0) =
      ∑ k ∈ Finset.range 15, (if r.getLsbD k = true then X ^ k else 0) * X := by
    refine Finset.sum_congr rfl fun k _ => ?_
    simp only [Nat.succ_pos, decide_true, Bool.true_and, Nat.add_sub_cancel]
    split_ifs <;> simp [pow_succ]
  rw [hs]
  have h15 : (if r.getLsbD 15 = true then (X : Polynomial (ZMod 2)) ^ 15 else 0) * X =
      (if r.getLsbD 15 = true then 1 else 0) * X ^ 16 := by
    split_ifs <;> ring
  have hb : (if b = true then (X : Polynomial (ZMod 2)) ^ 16 else 0) = (if b = true then 1 else 0) * X ^ 16 := by
    split_ifs <;> ring
  have two : ∀ p : Polynomial (ZMod 2), p + p = 0 := fun p => by
    rw [← two_mul, ← Polynomial.C_ofNat, show (OfNat.ofNat 2 : ZMod 2) = 0 from rfl, map_zero, zero_mul]
  rw [h15, hb]
  simp only [lt_irrefl, decide_false, Bool.false_and, Bool.false_eq_true, if_false, generator]
  generalize (if r.getLsbD 15 = true then (1 : Polynomial (ZMod 2)) else 0) = u
  generalize (if b = true then (1 : Polynomial (ZMod 2)) else 0) = v
  linear_combination two ((u + v) * (1 + X ^ 5 + X ^ 12))

/-- The register over the bits of a body (R173): what the preset and the bits come to, by the generator. -/
theorem crc_poly (r : BitVec 16) (bits : List Bool) : ∃ c : Polynomial (ZMod 2),
    polyOf (registerBits (bits.foldl crcStep r)) + c * generator =
      polyOf (registerBits r) * X ^ bits.length + polyOf bits * X ^ 16 := by
  induction bits using List.reverseRecOn with
  | nil => exact ⟨0, by simp [polyOf]⟩
  | append_singleton bits b ih =>
    obtain ⟨c, hc⟩ := ih
    obtain ⟨d, hd⟩ := crcStep_poly (bits.foldl crcStep r) b
    refine ⟨c * X + d, ?_⟩
    rw [List.foldl_append, List.foldl_cons, List.foldl_nil, polyOf_snoc, List.length_append, List.length_singleton]
    have hb : (if b = true then (X : Polynomial (ZMod 2)) ^ 16 else 0) = (if b = true then 1 else 0) * X ^ 16 := by
      split_ifs <;> ring
    rw [hb] at hd
    linear_combination hd + X * hc

/-- The check's complement is the register over the body's bits (R173). -/
theorem checkBits_not (bits : List Bool) :
    (checkBits bits).map not = registerBits (bits.foldl crcStep 0xFFFF) := by
  unfold checkBits registerBits crc
  rw [List.map_map]
  refine List.map_congr_left fun i _ => ?_
  have : 15 - i < 16 := by omega
  simp [this]

end Sys2Proof.Machine
end

