-- ==== Sys2Proof/Laws/State.lean ====
section
/-!
SUPPORT. One lemma per field per named update of the state: what the update leaves alone, and what it
writes.
-/

namespace Sys2Proof.Machine

variable (s : State)

/-! ### modifyPort -/

@[simp] theorem State.modifyPort_time (p : PortId) (f : PortUnit → PortUnit) : (s.modifyPort p f).time = s.time := rfl
@[simp] theorem State.modifyPort_windows (p : PortId) (f : PortUnit → PortUnit) : (s.modifyPort p f).windows = s.windows := rfl
@[simp] theorem State.modifyPort_panel (p : PortId) (f : PortUnit → PortUnit) : (s.modifyPort p f).panel = s.panel := rfl
@[simp] theorem State.modifyPort_tiles (p : PortId) (f : PortUnit → PortUnit) : (s.modifyPort p f).tiles = s.tiles := rfl
@[simp] theorem State.modifyPort_engines (p : PortId) (f : PortUnit → PortUnit) : (s.modifyPort p f).engines = s.engines := rfl
@[simp] theorem State.modifyPort_refreshPeriod (p : PortId) (f : PortUnit → PortUnit) : (s.modifyPort p f).refreshPeriod = s.refreshPeriod := rfl
@[simp] theorem State.modifyPort_refreshCount (p : PortId) (f : PortUnit → PortUnit) : (s.modifyPort p f).refreshCount = s.refreshCount := rfl
@[simp] theorem State.modifyPort_rail (p : PortId) (f : PortUnit → PortUnit) : (s.modifyPort p f).rail = s.rail := rfl
@[simp] theorem State.modifyPort_powerGood (p : PortId) (f : PortUnit → PortUnit) : (s.modifyPort p f).powerGood = s.powerGood := rfl
@[simp] theorem State.modifyPort_alerts (p : PortId) (f : PortUnit → PortUnit) : (s.modifyPort p f).alerts = s.alerts := rfl
@[simp] theorem State.modifyPort_shelvingDue (p : PortId) (f : PortUnit → PortUnit) : (s.modifyPort p f).shelvingDue = s.shelvingDue := rfl
@[simp] theorem State.modifyPort_bandHeight (p : PortId) (f : PortUnit → PortUnit) : (s.modifyPort p f).bandHeight = s.bandHeight := rfl
@[simp] theorem State.modifyPort_tones (p : PortId) (f : PortUnit → PortUnit) : (s.modifyPort p f).tones = s.tones := rfl
@[simp] theorem State.modifyPort_chimes (p : PortId) (f : PortUnit → PortUnit) : (s.modifyPort p f).chimes = s.chimes := rfl
@[simp] theorem State.modifyPort_pattern (p : PortId) (f : PortUnit → PortUnit) : (s.modifyPort p f).pattern = s.pattern := rfl
@[simp] theorem State.modifyPort_keys (p : PortId) (f : PortUnit → PortUnit) : (s.modifyPort p f).keys = s.keys := rfl
@[simp] theorem State.modifyPort_supervisor (p : PortId) (f : PortUnit → PortUnit) : (s.modifyPort p f).supervisor = s.supervisor := rfl
@[simp] theorem State.modifyPort_remoteTest (p : PortId) (f : PortUnit → PortUnit) : (s.modifyPort p f).remoteTest = s.remoteTest := rfl
@[simp] theorem State.modifyPort_blank (p : PortId) (f : PortUnit → PortUnit) : (s.modifyPort p f).blank = s.blank := rfl
@[simp] theorem State.modifyPort_choices (p : PortId) (f : PortUnit → PortUnit) : (s.modifyPort p f).choices = s.choices := rfl
@[simp] theorem State.modifyPort_pending (p : PortId) (f : PortUnit → PortUnit) : (s.modifyPort p f).pending = s.pending := rfl

/-! ### mapPorts -/

@[simp] theorem State.mapPorts_time (f : PortId → PortUnit → PortUnit) : (s.mapPorts f).time = s.time := rfl
@[simp] theorem State.mapPorts_windows (f : PortId → PortUnit → PortUnit) : (s.mapPorts f).windows = s.windows := rfl
@[simp] theorem State.mapPorts_panel (f : PortId → PortUnit → PortUnit) : (s.mapPorts f).panel = s.panel := rfl
@[simp] theorem State.mapPorts_tiles (f : PortId → PortUnit → PortUnit) : (s.mapPorts f).tiles = s.tiles := rfl
@[simp] theorem State.mapPorts_engines (f : PortId → PortUnit → PortUnit) : (s.mapPorts f).engines = s.engines := rfl
@[simp] theorem State.mapPorts_refreshPeriod (f : PortId → PortUnit → PortUnit) : (s.mapPorts f).refreshPeriod = s.refreshPeriod := rfl
@[simp] theorem State.mapPorts_refreshCount (f : PortId → PortUnit → PortUnit) : (s.mapPorts f).refreshCount = s.refreshCount := rfl
@[simp] theorem State.mapPorts_rail (f : PortId → PortUnit → PortUnit) : (s.mapPorts f).rail = s.rail := rfl
@[simp] theorem State.mapPorts_powerGood (f : PortId → PortUnit → PortUnit) : (s.mapPorts f).powerGood = s.powerGood := rfl
@[simp] theorem State.mapPorts_alerts (f : PortId → PortUnit → PortUnit) : (s.mapPorts f).alerts = s.alerts := rfl
@[simp] theorem State.mapPorts_shelvingDue (f : PortId → PortUnit → PortUnit) : (s.mapPorts f).shelvingDue = s.shelvingDue := rfl
@[simp] theorem State.mapPorts_bandHeight (f : PortId → PortUnit → PortUnit) : (s.mapPorts f).bandHeight = s.bandHeight := rfl
@[simp] theorem State.mapPorts_tones (f : PortId → PortUnit → PortUnit) : (s.mapPorts f).tones = s.tones := rfl
@[simp] theorem State.mapPorts_chimes (f : PortId → PortUnit → PortUnit) : (s.mapPorts f).chimes = s.chimes := rfl
@[simp] theorem State.mapPorts_pattern (f : PortId → PortUnit → PortUnit) : (s.mapPorts f).pattern = s.pattern := rfl
@[simp] theorem State.mapPorts_keys (f : PortId → PortUnit → PortUnit) : (s.mapPorts f).keys = s.keys := rfl
@[simp] theorem State.mapPorts_supervisor (f : PortId → PortUnit → PortUnit) : (s.mapPorts f).supervisor = s.supervisor := rfl
@[simp] theorem State.mapPorts_remoteTest (f : PortId → PortUnit → PortUnit) : (s.mapPorts f).remoteTest = s.remoteTest := rfl
@[simp] theorem State.mapPorts_blank (f : PortId → PortUnit → PortUnit) : (s.mapPorts f).blank = s.blank := rfl
@[simp] theorem State.mapPorts_choices (f : PortId → PortUnit → PortUnit) : (s.mapPorts f).choices = s.choices := rfl
@[simp] theorem State.mapPorts_pending (f : PortId → PortUnit → PortUnit) : (s.mapPorts f).pending = s.pending := rfl

/-! ### finish -/

@[simp] theorem State.finish_time : (s.finish).time = s.time := rfl
@[simp] theorem State.finish_windows : (s.finish).windows = s.windows := rfl
@[simp] theorem State.finish_panel : (s.finish).panel = s.panel := rfl
@[simp] theorem State.finish_tiles : (s.finish).tiles = s.tiles := rfl
@[simp] theorem State.finish_engines : (s.finish).engines = s.engines := rfl
@[simp] theorem State.finish_refreshPeriod : (s.finish).refreshPeriod = s.refreshPeriod := rfl
@[simp] theorem State.finish_refreshCount : (s.finish).refreshCount = s.refreshCount := rfl
@[simp] theorem State.finish_rail : (s.finish).rail = s.rail := rfl
@[simp] theorem State.finish_powerGood : (s.finish).powerGood = s.powerGood := rfl
@[simp] theorem State.finish_alerts : (s.finish).alerts = s.alerts := rfl
@[simp] theorem State.finish_shelvingDue : (s.finish).shelvingDue = s.shelvingDue := rfl
@[simp] theorem State.finish_bandHeight : (s.finish).bandHeight = s.bandHeight := rfl
@[simp] theorem State.finish_tones : (s.finish).tones = s.tones := rfl
@[simp] theorem State.finish_chimes : (s.finish).chimes = s.chimes := rfl
@[simp] theorem State.finish_pattern : (s.finish).pattern = s.pattern := rfl
@[simp] theorem State.finish_keys : (s.finish).keys = s.keys := rfl
@[simp] theorem State.finish_supervisor : (s.finish).supervisor = s.supervisor := rfl
@[simp] theorem State.finish_remoteTest : (s.finish).remoteTest = s.remoteTest := rfl
@[simp] theorem State.finish_blank : (s.finish).blank = s.blank := rfl
@[simp] theorem State.finish_choices : (s.finish).choices = s.choices := rfl
@[simp] theorem State.finish_pending : (s.finish).pending = s.pending := rfl

/-! ### deliver -/

@[simp] theorem State.deliver_time (n : Notice) : (s.deliver n).time = s.time := rfl
@[simp] theorem State.deliver_windows (n : Notice) : (s.deliver n).windows = s.windows := rfl
@[simp] theorem State.deliver_panel (n : Notice) : (s.deliver n).panel = s.panel := rfl
@[simp] theorem State.deliver_tiles (n : Notice) : (s.deliver n).tiles = s.tiles := rfl
@[simp] theorem State.deliver_engines (n : Notice) : (s.deliver n).engines = s.engines := rfl
@[simp] theorem State.deliver_refreshPeriod (n : Notice) : (s.deliver n).refreshPeriod = s.refreshPeriod := rfl
@[simp] theorem State.deliver_refreshCount (n : Notice) : (s.deliver n).refreshCount = s.refreshCount := rfl
@[simp] theorem State.deliver_rail (n : Notice) : (s.deliver n).rail = s.rail := rfl
@[simp] theorem State.deliver_powerGood (n : Notice) : (s.deliver n).powerGood = s.powerGood := rfl
@[simp] theorem State.deliver_alerts (n : Notice) : (s.deliver n).alerts = s.alerts := rfl
@[simp] theorem State.deliver_shelvingDue (n : Notice) : (s.deliver n).shelvingDue = s.shelvingDue := rfl
@[simp] theorem State.deliver_bandHeight (n : Notice) : (s.deliver n).bandHeight = s.bandHeight := rfl
@[simp] theorem State.deliver_tones (n : Notice) : (s.deliver n).tones = s.tones := rfl
@[simp] theorem State.deliver_chimes (n : Notice) : (s.deliver n).chimes = s.chimes := rfl
@[simp] theorem State.deliver_pattern (n : Notice) : (s.deliver n).pattern = s.pattern := rfl
@[simp] theorem State.deliver_keys (n : Notice) : (s.deliver n).keys = s.keys := rfl
@[simp] theorem State.deliver_supervisor (n : Notice) : (s.deliver n).supervisor = s.supervisor := rfl
@[simp] theorem State.deliver_remoteTest (n : Notice) : (s.deliver n).remoteTest = s.remoteTest := rfl
@[simp] theorem State.deliver_blank (n : Notice) : (s.deliver n).blank = s.blank := rfl
@[simp] theorem State.deliver_choices (n : Notice) : (s.deliver n).choices = s.choices := rfl
@[simp] theorem State.deliver_pending (n : Notice) : (s.deliver n).pending = s.pending := rfl

/-! ### endWaits -/

@[simp] theorem State.endWaits_time (st : Status) (ends : WindowId → Bool) : (s.endWaits st ends).time = s.time := rfl
@[simp] theorem State.endWaits_windows (st : Status) (ends : WindowId → Bool) : (s.endWaits st ends).windows = s.windows := rfl
@[simp] theorem State.endWaits_panel (st : Status) (ends : WindowId → Bool) : (s.endWaits st ends).panel = s.panel := rfl
@[simp] theorem State.endWaits_tiles (st : Status) (ends : WindowId → Bool) : (s.endWaits st ends).tiles = s.tiles := rfl
@[simp] theorem State.endWaits_engines (st : Status) (ends : WindowId → Bool) : (s.endWaits st ends).engines = s.engines := rfl
@[simp] theorem State.endWaits_refreshPeriod (st : Status) (ends : WindowId → Bool) : (s.endWaits st ends).refreshPeriod = s.refreshPeriod := rfl
@[simp] theorem State.endWaits_refreshCount (st : Status) (ends : WindowId → Bool) : (s.endWaits st ends).refreshCount = s.refreshCount := rfl
@[simp] theorem State.endWaits_rail (st : Status) (ends : WindowId → Bool) : (s.endWaits st ends).rail = s.rail := rfl
@[simp] theorem State.endWaits_powerGood (st : Status) (ends : WindowId → Bool) : (s.endWaits st ends).powerGood = s.powerGood := rfl
@[simp] theorem State.endWaits_alerts (st : Status) (ends : WindowId → Bool) : (s.endWaits st ends).alerts = s.alerts := rfl
@[simp] theorem State.endWaits_shelvingDue (st : Status) (ends : WindowId → Bool) : (s.endWaits st ends).shelvingDue = s.shelvingDue := rfl
@[simp] theorem State.endWaits_bandHeight (st : Status) (ends : WindowId → Bool) : (s.endWaits st ends).bandHeight = s.bandHeight := rfl
@[simp] theorem State.endWaits_tones (st : Status) (ends : WindowId → Bool) : (s.endWaits st ends).tones = s.tones := rfl
@[simp] theorem State.endWaits_chimes (st : Status) (ends : WindowId → Bool) : (s.endWaits st ends).chimes = s.chimes := rfl
@[simp] theorem State.endWaits_pattern (st : Status) (ends : WindowId → Bool) : (s.endWaits st ends).pattern = s.pattern := rfl
@[simp] theorem State.endWaits_keys (st : Status) (ends : WindowId → Bool) : (s.endWaits st ends).keys = s.keys := rfl
@[simp] theorem State.endWaits_supervisor (st : Status) (ends : WindowId → Bool) : (s.endWaits st ends).supervisor = s.supervisor := rfl
@[simp] theorem State.endWaits_remoteTest (st : Status) (ends : WindowId → Bool) : (s.endWaits st ends).remoteTest = s.remoteTest := rfl
@[simp] theorem State.endWaits_blank (st : Status) (ends : WindowId → Bool) : (s.endWaits st ends).blank = s.blank := rfl
@[simp] theorem State.endWaits_choices (st : Status) (ends : WindowId → Bool) : (s.endWaits st ends).choices = s.choices := rfl
@[simp] theorem State.endWaits_pending (st : Status) (ends : WindowId → Bool) : (s.endWaits st ends).pending = s.pending := rfl

/-! ### refuse -/

@[simp] theorem State.refuse_time (p : PortId) (tag code : Byte) (st : Status) : (s.refuse p tag code st).time = s.time := rfl
@[simp] theorem State.refuse_windows (p : PortId) (tag code : Byte) (st : Status) : (s.refuse p tag code st).windows = s.windows := rfl
@[simp] theorem State.refuse_panel (p : PortId) (tag code : Byte) (st : Status) : (s.refuse p tag code st).panel = s.panel := rfl
@[simp] theorem State.refuse_tiles (p : PortId) (tag code : Byte) (st : Status) : (s.refuse p tag code st).tiles = s.tiles := rfl
@[simp] theorem State.refuse_engines (p : PortId) (tag code : Byte) (st : Status) : (s.refuse p tag code st).engines = s.engines := rfl
@[simp] theorem State.refuse_refreshPeriod (p : PortId) (tag code : Byte) (st : Status) : (s.refuse p tag code st).refreshPeriod = s.refreshPeriod := rfl
@[simp] theorem State.refuse_refreshCount (p : PortId) (tag code : Byte) (st : Status) : (s.refuse p tag code st).refreshCount = s.refreshCount := rfl
@[simp] theorem State.refuse_rail (p : PortId) (tag code : Byte) (st : Status) : (s.refuse p tag code st).rail = s.rail := rfl
@[simp] theorem State.refuse_powerGood (p : PortId) (tag code : Byte) (st : Status) : (s.refuse p tag code st).powerGood = s.powerGood := rfl
@[simp] theorem State.refuse_alerts (p : PortId) (tag code : Byte) (st : Status) : (s.refuse p tag code st).alerts = s.alerts := rfl
@[simp] theorem State.refuse_shelvingDue (p : PortId) (tag code : Byte) (st : Status) : (s.refuse p tag code st).shelvingDue = s.shelvingDue := rfl
@[simp] theorem State.refuse_bandHeight (p : PortId) (tag code : Byte) (st : Status) : (s.refuse p tag code st).bandHeight = s.bandHeight := rfl
@[simp] theorem State.refuse_tones (p : PortId) (tag code : Byte) (st : Status) : (s.refuse p tag code st).tones = s.tones := rfl
@[simp] theorem State.refuse_chimes (p : PortId) (tag code : Byte) (st : Status) : (s.refuse p tag code st).chimes = s.chimes := rfl
@[simp] theorem State.refuse_pattern (p : PortId) (tag code : Byte) (st : Status) : (s.refuse p tag code st).pattern = s.pattern := rfl
@[simp] theorem State.refuse_keys (p : PortId) (tag code : Byte) (st : Status) : (s.refuse p tag code st).keys = s.keys := rfl
@[simp] theorem State.refuse_supervisor (p : PortId) (tag code : Byte) (st : Status) : (s.refuse p tag code st).supervisor = s.supervisor := rfl
@[simp] theorem State.refuse_remoteTest (p : PortId) (tag code : Byte) (st : Status) : (s.refuse p tag code st).remoteTest = s.remoteTest := rfl
@[simp] theorem State.refuse_blank (p : PortId) (tag code : Byte) (st : Status) : (s.refuse p tag code st).blank = s.blank := rfl
@[simp] theorem State.refuse_choices (p : PortId) (tag code : Byte) (st : Status) : (s.refuse p tag code st).choices = s.choices := rfl
@[simp] theorem State.refuse_pending (p : PortId) (tag code : Byte) (st : Status) : (s.refuse p tag code st).pending = s.pending := rfl

/-! ### setRail -/

@[simp] theorem State.setRail_time (r : RailState) : (s.setRail r).time = s.time := rfl
@[simp] theorem State.setRail_windows (r : RailState) : (s.setRail r).windows = s.windows := rfl
@[simp] theorem State.setRail_panel (r : RailState) : (s.setRail r).panel = s.panel := rfl
@[simp] theorem State.setRail_tiles (r : RailState) : (s.setRail r).tiles = s.tiles := rfl
@[simp] theorem State.setRail_engines (r : RailState) : (s.setRail r).engines = s.engines := rfl
@[simp] theorem State.setRail_refreshPeriod (r : RailState) : (s.setRail r).refreshPeriod = s.refreshPeriod := rfl
@[simp] theorem State.setRail_refreshCount (r : RailState) : (s.setRail r).refreshCount = s.refreshCount := rfl
@[simp] theorem State.setRail_powerGood (r : RailState) : (s.setRail r).powerGood = s.powerGood := rfl
@[simp] theorem State.setRail_alerts (r : RailState) : (s.setRail r).alerts = s.alerts := rfl
@[simp] theorem State.setRail_shelvingDue (r : RailState) : (s.setRail r).shelvingDue = s.shelvingDue := rfl
@[simp] theorem State.setRail_bandHeight (r : RailState) : (s.setRail r).bandHeight = s.bandHeight := rfl
@[simp] theorem State.setRail_tones (r : RailState) : (s.setRail r).tones = s.tones := rfl
@[simp] theorem State.setRail_chimes (r : RailState) : (s.setRail r).chimes = s.chimes := rfl
@[simp] theorem State.setRail_pattern (r : RailState) : (s.setRail r).pattern = s.pattern := rfl
@[simp] theorem State.setRail_keys (r : RailState) : (s.setRail r).keys = s.keys := rfl
@[simp] theorem State.setRail_ports (r : RailState) : (s.setRail r).ports = s.ports := rfl
@[simp] theorem State.setRail_supervisor (r : RailState) : (s.setRail r).supervisor = s.supervisor := rfl
@[simp] theorem State.setRail_remoteTest (r : RailState) : (s.setRail r).remoteTest = s.remoteTest := rfl
@[simp] theorem State.setRail_blank (r : RailState) : (s.setRail r).blank = s.blank := rfl
@[simp] theorem State.setRail_choices (r : RailState) : (s.setRail r).choices = s.choices := rfl
@[simp] theorem State.setRail_pending (r : RailState) : (s.setRail r).pending = s.pending := rfl

/-! ### setAttempts -/

@[simp] theorem State.setAttempts_time (n : Nat) : (s.setAttempts n).time = s.time := rfl
@[simp] theorem State.setAttempts_windows (n : Nat) : (s.setAttempts n).windows = s.windows := rfl
@[simp] theorem State.setAttempts_panel (n : Nat) : (s.setAttempts n).panel = s.panel := rfl
@[simp] theorem State.setAttempts_tiles (n : Nat) : (s.setAttempts n).tiles = s.tiles := rfl
@[simp] theorem State.setAttempts_engines (n : Nat) : (s.setAttempts n).engines = s.engines := rfl
@[simp] theorem State.setAttempts_refreshPeriod (n : Nat) : (s.setAttempts n).refreshPeriod = s.refreshPeriod := rfl
@[simp] theorem State.setAttempts_refreshCount (n : Nat) : (s.setAttempts n).refreshCount = s.refreshCount := rfl
@[simp] theorem State.setAttempts_powerGood (n : Nat) : (s.setAttempts n).powerGood = s.powerGood := rfl
@[simp] theorem State.setAttempts_alerts (n : Nat) : (s.setAttempts n).alerts = s.alerts := rfl
@[simp] theorem State.setAttempts_shelvingDue (n : Nat) : (s.setAttempts n).shelvingDue = s.shelvingDue := rfl
@[simp] theorem State.setAttempts_bandHeight (n : Nat) : (s.setAttempts n).bandHeight = s.bandHeight := rfl
@[simp] theorem State.setAttempts_tones (n : Nat) : (s.setAttempts n).tones = s.tones := rfl
@[simp] theorem State.setAttempts_chimes (n : Nat) : (s.setAttempts n).chimes = s.chimes := rfl
@[simp] theorem State.setAttempts_pattern (n : Nat) : (s.setAttempts n).pattern = s.pattern := rfl
@[simp] theorem State.setAttempts_keys (n : Nat) : (s.setAttempts n).keys = s.keys := rfl
@[simp] theorem State.setAttempts_ports (n : Nat) : (s.setAttempts n).ports = s.ports := rfl
@[simp] theorem State.setAttempts_supervisor (n : Nat) : (s.setAttempts n).supervisor = s.supervisor := rfl
@[simp] theorem State.setAttempts_remoteTest (n : Nat) : (s.setAttempts n).remoteTest = s.remoteTest := rfl
@[simp] theorem State.setAttempts_blank (n : Nat) : (s.setAttempts n).blank = s.blank := rfl
@[simp] theorem State.setAttempts_choices (n : Nat) : (s.setAttempts n).choices = s.choices := rfl
@[simp] theorem State.setAttempts_pending (n : Nat) : (s.setAttempts n).pending = s.pending := rfl

/-! ### setEntry -/

@[simp] theorem State.setEntry_time (i : WindowId) (e : Option Window) : (s.setEntry i e).time = s.time := rfl
@[simp] theorem State.setEntry_panel (i : WindowId) (e : Option Window) : (s.setEntry i e).panel = s.panel := rfl
@[simp] theorem State.setEntry_tiles (i : WindowId) (e : Option Window) : (s.setEntry i e).tiles = s.tiles := rfl
@[simp] theorem State.setEntry_engines (i : WindowId) (e : Option Window) : (s.setEntry i e).engines = s.engines := rfl
@[simp] theorem State.setEntry_refreshPeriod (i : WindowId) (e : Option Window) : (s.setEntry i e).refreshPeriod = s.refreshPeriod := rfl
@[simp] theorem State.setEntry_refreshCount (i : WindowId) (e : Option Window) : (s.setEntry i e).refreshCount = s.refreshCount := rfl
@[simp] theorem State.setEntry_rail (i : WindowId) (e : Option Window) : (s.setEntry i e).rail = s.rail := rfl
@[simp] theorem State.setEntry_powerGood (i : WindowId) (e : Option Window) : (s.setEntry i e).powerGood = s.powerGood := rfl
@[simp] theorem State.setEntry_alerts (i : WindowId) (e : Option Window) : (s.setEntry i e).alerts = s.alerts := rfl
@[simp] theorem State.setEntry_shelvingDue (i : WindowId) (e : Option Window) : (s.setEntry i e).shelvingDue = s.shelvingDue := rfl
@[simp] theorem State.setEntry_bandHeight (i : WindowId) (e : Option Window) : (s.setEntry i e).bandHeight = s.bandHeight := rfl
@[simp] theorem State.setEntry_tones (i : WindowId) (e : Option Window) : (s.setEntry i e).tones = s.tones := rfl
@[simp] theorem State.setEntry_chimes (i : WindowId) (e : Option Window) : (s.setEntry i e).chimes = s.chimes := rfl
@[simp] theorem State.setEntry_pattern (i : WindowId) (e : Option Window) : (s.setEntry i e).pattern = s.pattern := rfl
@[simp] theorem State.setEntry_keys (i : WindowId) (e : Option Window) : (s.setEntry i e).keys = s.keys := rfl
@[simp] theorem State.setEntry_ports (i : WindowId) (e : Option Window) : (s.setEntry i e).ports = s.ports := rfl
@[simp] theorem State.setEntry_supervisor (i : WindowId) (e : Option Window) : (s.setEntry i e).supervisor = s.supervisor := rfl
@[simp] theorem State.setEntry_remoteTest (i : WindowId) (e : Option Window) : (s.setEntry i e).remoteTest = s.remoteTest := rfl
@[simp] theorem State.setEntry_blank (i : WindowId) (e : Option Window) : (s.setEntry i e).blank = s.blank := rfl
@[simp] theorem State.setEntry_choices (i : WindowId) (e : Option Window) : (s.setEntry i e).choices = s.choices := rfl
@[simp] theorem State.setEntry_pending (i : WindowId) (e : Option Window) : (s.setEntry i e).pending = s.pending := rfl

/-! ### setPattern -/

@[simp] theorem State.setPattern_time (pt : Pattern) : (s.setPattern pt).time = s.time := rfl
@[simp] theorem State.setPattern_windows (pt : Pattern) : (s.setPattern pt).windows = s.windows := rfl
@[simp] theorem State.setPattern_panel (pt : Pattern) : (s.setPattern pt).panel = s.panel := rfl
@[simp] theorem State.setPattern_tiles (pt : Pattern) : (s.setPattern pt).tiles = s.tiles := rfl
@[simp] theorem State.setPattern_engines (pt : Pattern) : (s.setPattern pt).engines = s.engines := rfl
@[simp] theorem State.setPattern_refreshPeriod (pt : Pattern) : (s.setPattern pt).refreshPeriod = s.refreshPeriod := rfl
@[simp] theorem State.setPattern_refreshCount (pt : Pattern) : (s.setPattern pt).refreshCount = s.refreshCount := rfl
@[simp] theorem State.setPattern_rail (pt : Pattern) : (s.setPattern pt).rail = s.rail := rfl
@[simp] theorem State.setPattern_powerGood (pt : Pattern) : (s.setPattern pt).powerGood = s.powerGood := rfl
@[simp] theorem State.setPattern_alerts (pt : Pattern) : (s.setPattern pt).alerts = s.alerts := rfl
@[simp] theorem State.setPattern_shelvingDue (pt : Pattern) : (s.setPattern pt).shelvingDue = s.shelvingDue := rfl
@[simp] theorem State.setPattern_bandHeight (pt : Pattern) : (s.setPattern pt).bandHeight = s.bandHeight := rfl
@[simp] theorem State.setPattern_tones (pt : Pattern) : (s.setPattern pt).tones = s.tones := rfl
@[simp] theorem State.setPattern_chimes (pt : Pattern) : (s.setPattern pt).chimes = s.chimes := rfl
@[simp] theorem State.setPattern_keys (pt : Pattern) : (s.setPattern pt).keys = s.keys := rfl
@[simp] theorem State.setPattern_ports (pt : Pattern) : (s.setPattern pt).ports = s.ports := rfl
@[simp] theorem State.setPattern_supervisor (pt : Pattern) : (s.setPattern pt).supervisor = s.supervisor := rfl
@[simp] theorem State.setPattern_remoteTest (pt : Pattern) : (s.setPattern pt).remoteTest = s.remoteTest := rfl
@[simp] theorem State.setPattern_blank (pt : Pattern) : (s.setPattern pt).blank = s.blank := rfl
@[simp] theorem State.setPattern_choices (pt : Pattern) : (s.setPattern pt).choices = s.choices := rfl
@[simp] theorem State.setPattern_pending (pt : Pattern) : (s.setPattern pt).pending = s.pending := rfl

/-! ### startPattern -/

@[simp] theorem State.startPattern_time (src : SoundSource) (e : ToneId) : (s.startPattern src e).time = s.time := rfl
@[simp] theorem State.startPattern_windows (src : SoundSource) (e : ToneId) : (s.startPattern src e).windows = s.windows := rfl
@[simp] theorem State.startPattern_panel (src : SoundSource) (e : ToneId) : (s.startPattern src e).panel = s.panel := rfl
@[simp] theorem State.startPattern_tiles (src : SoundSource) (e : ToneId) : (s.startPattern src e).tiles = s.tiles := rfl
@[simp] theorem State.startPattern_engines (src : SoundSource) (e : ToneId) : (s.startPattern src e).engines = s.engines := rfl
@[simp] theorem State.startPattern_refreshPeriod (src : SoundSource) (e : ToneId) : (s.startPattern src e).refreshPeriod = s.refreshPeriod := rfl
@[simp] theorem State.startPattern_refreshCount (src : SoundSource) (e : ToneId) : (s.startPattern src e).refreshCount = s.refreshCount := rfl
@[simp] theorem State.startPattern_rail (src : SoundSource) (e : ToneId) : (s.startPattern src e).rail = s.rail := rfl
@[simp] theorem State.startPattern_powerGood (src : SoundSource) (e : ToneId) : (s.startPattern src e).powerGood = s.powerGood := rfl
@[simp] theorem State.startPattern_alerts (src : SoundSource) (e : ToneId) : (s.startPattern src e).alerts = s.alerts := rfl
@[simp] theorem State.startPattern_shelvingDue (src : SoundSource) (e : ToneId) : (s.startPattern src e).shelvingDue = s.shelvingDue := rfl
@[simp] theorem State.startPattern_bandHeight (src : SoundSource) (e : ToneId) : (s.startPattern src e).bandHeight = s.bandHeight := rfl
@[simp] theorem State.startPattern_tones (src : SoundSource) (e : ToneId) : (s.startPattern src e).tones = s.tones := rfl
@[simp] theorem State.startPattern_chimes (src : SoundSource) (e : ToneId) : (s.startPattern src e).chimes = s.chimes := rfl
@[simp] theorem State.startPattern_keys (src : SoundSource) (e : ToneId) : (s.startPattern src e).keys = s.keys := rfl
@[simp] theorem State.startPattern_ports (src : SoundSource) (e : ToneId) : (s.startPattern src e).ports = s.ports := rfl
@[simp] theorem State.startPattern_supervisor (src : SoundSource) (e : ToneId) : (s.startPattern src e).supervisor = s.supervisor := rfl
@[simp] theorem State.startPattern_remoteTest (src : SoundSource) (e : ToneId) : (s.startPattern src e).remoteTest = s.remoteTest := rfl
@[simp] theorem State.startPattern_blank (src : SoundSource) (e : ToneId) : (s.startPattern src e).blank = s.blank := rfl
@[simp] theorem State.startPattern_choices (src : SoundSource) (e : ToneId) : (s.startPattern src e).choices = s.choices := rfl
@[simp] theorem State.startPattern_pending (src : SoundSource) (e : ToneId) : (s.startPattern src e).pending = s.pending := rfl

/-! ### dropChime -/

@[simp] theorem State.dropChime_time : (s.dropChime).time = s.time := rfl
@[simp] theorem State.dropChime_windows : (s.dropChime).windows = s.windows := rfl
@[simp] theorem State.dropChime_panel : (s.dropChime).panel = s.panel := rfl
@[simp] theorem State.dropChime_tiles : (s.dropChime).tiles = s.tiles := rfl
@[simp] theorem State.dropChime_engines : (s.dropChime).engines = s.engines := rfl
@[simp] theorem State.dropChime_refreshPeriod : (s.dropChime).refreshPeriod = s.refreshPeriod := rfl
@[simp] theorem State.dropChime_refreshCount : (s.dropChime).refreshCount = s.refreshCount := rfl
@[simp] theorem State.dropChime_rail : (s.dropChime).rail = s.rail := rfl
@[simp] theorem State.dropChime_powerGood : (s.dropChime).powerGood = s.powerGood := rfl
@[simp] theorem State.dropChime_alerts : (s.dropChime).alerts = s.alerts := rfl
@[simp] theorem State.dropChime_shelvingDue : (s.dropChime).shelvingDue = s.shelvingDue := rfl
@[simp] theorem State.dropChime_bandHeight : (s.dropChime).bandHeight = s.bandHeight := rfl
@[simp] theorem State.dropChime_tones : (s.dropChime).tones = s.tones := rfl
@[simp] theorem State.dropChime_keys : (s.dropChime).keys = s.keys := rfl
@[simp] theorem State.dropChime_ports : (s.dropChime).ports = s.ports := rfl
@[simp] theorem State.dropChime_supervisor : (s.dropChime).supervisor = s.supervisor := rfl
@[simp] theorem State.dropChime_remoteTest : (s.dropChime).remoteTest = s.remoteTest := rfl
@[simp] theorem State.dropChime_blank : (s.dropChime).blank = s.blank := rfl
@[simp] theorem State.dropChime_choices : (s.dropChime).choices = s.choices := rfl
@[simp] theorem State.dropChime_pending : (s.dropChime).pending = s.pending := rfl

/-! ### changeRecord -/

@[simp] theorem State.changeRecord_time (src : Source) (code : Byte) (f : Alert → Alert) : (s.changeRecord src code f).time = s.time := rfl
@[simp] theorem State.changeRecord_windows (src : Source) (code : Byte) (f : Alert → Alert) : (s.changeRecord src code f).windows = s.windows := rfl
@[simp] theorem State.changeRecord_panel (src : Source) (code : Byte) (f : Alert → Alert) : (s.changeRecord src code f).panel = s.panel := rfl
@[simp] theorem State.changeRecord_tiles (src : Source) (code : Byte) (f : Alert → Alert) : (s.changeRecord src code f).tiles = s.tiles := rfl
@[simp] theorem State.changeRecord_engines (src : Source) (code : Byte) (f : Alert → Alert) : (s.changeRecord src code f).engines = s.engines := rfl
@[simp] theorem State.changeRecord_refreshPeriod (src : Source) (code : Byte) (f : Alert → Alert) : (s.changeRecord src code f).refreshPeriod = s.refreshPeriod := rfl
@[simp] theorem State.changeRecord_refreshCount (src : Source) (code : Byte) (f : Alert → Alert) : (s.changeRecord src code f).refreshCount = s.refreshCount := rfl
@[simp] theorem State.changeRecord_rail (src : Source) (code : Byte) (f : Alert → Alert) : (s.changeRecord src code f).rail = s.rail := rfl
@[simp] theorem State.changeRecord_powerGood (src : Source) (code : Byte) (f : Alert → Alert) : (s.changeRecord src code f).powerGood = s.powerGood := rfl
@[simp] theorem State.changeRecord_shelvingDue (src : Source) (code : Byte) (f : Alert → Alert) : (s.changeRecord src code f).shelvingDue = s.shelvingDue := rfl
@[simp] theorem State.changeRecord_bandHeight (src : Source) (code : Byte) (f : Alert → Alert) : (s.changeRecord src code f).bandHeight = s.bandHeight := rfl
@[simp] theorem State.changeRecord_tones (src : Source) (code : Byte) (f : Alert → Alert) : (s.changeRecord src code f).tones = s.tones := rfl
@[simp] theorem State.changeRecord_chimes (src : Source) (code : Byte) (f : Alert → Alert) : (s.changeRecord src code f).chimes = s.chimes := rfl
@[simp] theorem State.changeRecord_pattern (src : Source) (code : Byte) (f : Alert → Alert) : (s.changeRecord src code f).pattern = s.pattern := rfl
@[simp] theorem State.changeRecord_keys (src : Source) (code : Byte) (f : Alert → Alert) : (s.changeRecord src code f).keys = s.keys := rfl
@[simp] theorem State.changeRecord_ports (src : Source) (code : Byte) (f : Alert → Alert) : (s.changeRecord src code f).ports = s.ports := rfl
@[simp] theorem State.changeRecord_supervisor (src : Source) (code : Byte) (f : Alert → Alert) : (s.changeRecord src code f).supervisor = s.supervisor := rfl
@[simp] theorem State.changeRecord_remoteTest (src : Source) (code : Byte) (f : Alert → Alert) : (s.changeRecord src code f).remoteTest = s.remoteTest := rfl
@[simp] theorem State.changeRecord_blank (src : Source) (code : Byte) (f : Alert → Alert) : (s.changeRecord src code f).blank = s.blank := rfl
@[simp] theorem State.changeRecord_choices (src : Source) (code : Byte) (f : Alert → Alert) : (s.changeRecord src code f).choices = s.choices := rfl
@[simp] theorem State.changeRecord_pending (src : Source) (code : Byte) (f : Alert → Alert) : (s.changeRecord src code f).pending = s.pending := rfl

/-! ### removeRecord -/

@[simp] theorem State.removeRecord_time (src : Source) (code : Byte) : (s.removeRecord src code).time = s.time := rfl
@[simp] theorem State.removeRecord_windows (src : Source) (code : Byte) : (s.removeRecord src code).windows = s.windows := rfl
@[simp] theorem State.removeRecord_panel (src : Source) (code : Byte) : (s.removeRecord src code).panel = s.panel := rfl
@[simp] theorem State.removeRecord_tiles (src : Source) (code : Byte) : (s.removeRecord src code).tiles = s.tiles := rfl
@[simp] theorem State.removeRecord_engines (src : Source) (code : Byte) : (s.removeRecord src code).engines = s.engines := rfl
@[simp] theorem State.removeRecord_refreshPeriod (src : Source) (code : Byte) : (s.removeRecord src code).refreshPeriod = s.refreshPeriod := rfl
@[simp] theorem State.removeRecord_refreshCount (src : Source) (code : Byte) : (s.removeRecord src code).refreshCount = s.refreshCount := rfl
@[simp] theorem State.removeRecord_rail (src : Source) (code : Byte) : (s.removeRecord src code).rail = s.rail := rfl
@[simp] theorem State.removeRecord_powerGood (src : Source) (code : Byte) : (s.removeRecord src code).powerGood = s.powerGood := rfl
@[simp] theorem State.removeRecord_shelvingDue (src : Source) (code : Byte) : (s.removeRecord src code).shelvingDue = s.shelvingDue := rfl
@[simp] theorem State.removeRecord_bandHeight (src : Source) (code : Byte) : (s.removeRecord src code).bandHeight = s.bandHeight := rfl
@[simp] theorem State.removeRecord_tones (src : Source) (code : Byte) : (s.removeRecord src code).tones = s.tones := rfl
@[simp] theorem State.removeRecord_chimes (src : Source) (code : Byte) : (s.removeRecord src code).chimes = s.chimes := rfl
@[simp] theorem State.removeRecord_pattern (src : Source) (code : Byte) : (s.removeRecord src code).pattern = s.pattern := rfl
@[simp] theorem State.removeRecord_keys (src : Source) (code : Byte) : (s.removeRecord src code).keys = s.keys := rfl
@[simp] theorem State.removeRecord_ports (src : Source) (code : Byte) : (s.removeRecord src code).ports = s.ports := rfl
@[simp] theorem State.removeRecord_supervisor (src : Source) (code : Byte) : (s.removeRecord src code).supervisor = s.supervisor := rfl
@[simp] theorem State.removeRecord_remoteTest (src : Source) (code : Byte) : (s.removeRecord src code).remoteTest = s.remoteTest := rfl
@[simp] theorem State.removeRecord_blank (src : Source) (code : Byte) : (s.removeRecord src code).blank = s.blank := rfl
@[simp] theorem State.removeRecord_choices (src : Source) (code : Byte) : (s.removeRecord src code).choices = s.choices := rfl
@[simp] theorem State.removeRecord_pending (src : Source) (code : Byte) : (s.removeRecord src code).pending = s.pending := rfl

/-! ### startJob -/

@[simp] theorem State.startJob_time (e : EngineId) (n : TileId) : (s.startJob e n).time = s.time := rfl
@[simp] theorem State.startJob_windows (e : EngineId) (n : TileId) : (s.startJob e n).windows = s.windows := rfl
@[simp] theorem State.startJob_panel (e : EngineId) (n : TileId) : (s.startJob e n).panel = s.panel := rfl
@[simp] theorem State.startJob_refreshPeriod (e : EngineId) (n : TileId) : (s.startJob e n).refreshPeriod = s.refreshPeriod := rfl
@[simp] theorem State.startJob_refreshCount (e : EngineId) (n : TileId) : (s.startJob e n).refreshCount = s.refreshCount := rfl
@[simp] theorem State.startJob_rail (e : EngineId) (n : TileId) : (s.startJob e n).rail = s.rail := rfl
@[simp] theorem State.startJob_powerGood (e : EngineId) (n : TileId) : (s.startJob e n).powerGood = s.powerGood := rfl
@[simp] theorem State.startJob_alerts (e : EngineId) (n : TileId) : (s.startJob e n).alerts = s.alerts := rfl
@[simp] theorem State.startJob_shelvingDue (e : EngineId) (n : TileId) : (s.startJob e n).shelvingDue = s.shelvingDue := rfl
@[simp] theorem State.startJob_bandHeight (e : EngineId) (n : TileId) : (s.startJob e n).bandHeight = s.bandHeight := rfl
@[simp] theorem State.startJob_tones (e : EngineId) (n : TileId) : (s.startJob e n).tones = s.tones := rfl
@[simp] theorem State.startJob_chimes (e : EngineId) (n : TileId) : (s.startJob e n).chimes = s.chimes := rfl
@[simp] theorem State.startJob_pattern (e : EngineId) (n : TileId) : (s.startJob e n).pattern = s.pattern := rfl
@[simp] theorem State.startJob_keys (e : EngineId) (n : TileId) : (s.startJob e n).keys = s.keys := rfl
@[simp] theorem State.startJob_ports (e : EngineId) (n : TileId) : (s.startJob e n).ports = s.ports := rfl
@[simp] theorem State.startJob_supervisor (e : EngineId) (n : TileId) : (s.startJob e n).supervisor = s.supervisor := rfl
@[simp] theorem State.startJob_remoteTest (e : EngineId) (n : TileId) : (s.startJob e n).remoteTest = s.remoteTest := rfl
@[simp] theorem State.startJob_blank (e : EngineId) (n : TileId) : (s.startJob e n).blank = s.blank := rfl
@[simp] theorem State.startJob_choices (e : EngineId) (n : TileId) : (s.startJob e n).choices = s.choices := rfl
@[simp] theorem State.startJob_pending (e : EngineId) (n : TileId) : (s.startJob e n).pending = s.pending := rfl

/-! ### compositorEvent -/

@[simp] theorem State.compositorEvent_time (v : View) (ns : List TileId) : (s.compositorEvent v ns).time = s.time := rfl
@[simp] theorem State.compositorEvent_windows (v : View) (ns : List TileId) : (s.compositorEvent v ns).windows = s.windows := rfl
@[simp] theorem State.compositorEvent_panel (v : View) (ns : List TileId) : (s.compositorEvent v ns).panel = s.panel := rfl
@[simp] theorem State.compositorEvent_engines (v : View) (ns : List TileId) : (s.compositorEvent v ns).engines = s.engines := rfl
@[simp] theorem State.compositorEvent_refreshPeriod (v : View) (ns : List TileId) : (s.compositorEvent v ns).refreshPeriod = s.refreshPeriod := rfl
@[simp] theorem State.compositorEvent_refreshCount (v : View) (ns : List TileId) : (s.compositorEvent v ns).refreshCount = s.refreshCount := rfl
@[simp] theorem State.compositorEvent_rail (v : View) (ns : List TileId) : (s.compositorEvent v ns).rail = s.rail := rfl
@[simp] theorem State.compositorEvent_powerGood (v : View) (ns : List TileId) : (s.compositorEvent v ns).powerGood = s.powerGood := rfl
@[simp] theorem State.compositorEvent_alerts (v : View) (ns : List TileId) : (s.compositorEvent v ns).alerts = s.alerts := rfl
@[simp] theorem State.compositorEvent_shelvingDue (v : View) (ns : List TileId) : (s.compositorEvent v ns).shelvingDue = s.shelvingDue := rfl
@[simp] theorem State.compositorEvent_bandHeight (v : View) (ns : List TileId) : (s.compositorEvent v ns).bandHeight = s.bandHeight := rfl
@[simp] theorem State.compositorEvent_tones (v : View) (ns : List TileId) : (s.compositorEvent v ns).tones = s.tones := rfl
@[simp] theorem State.compositorEvent_chimes (v : View) (ns : List TileId) : (s.compositorEvent v ns).chimes = s.chimes := rfl
@[simp] theorem State.compositorEvent_pattern (v : View) (ns : List TileId) : (s.compositorEvent v ns).pattern = s.pattern := rfl
@[simp] theorem State.compositorEvent_keys (v : View) (ns : List TileId) : (s.compositorEvent v ns).keys = s.keys := rfl
@[simp] theorem State.compositorEvent_supervisor (v : View) (ns : List TileId) : (s.compositorEvent v ns).supervisor = s.supervisor := rfl
@[simp] theorem State.compositorEvent_remoteTest (v : View) (ns : List TileId) : (s.compositorEvent v ns).remoteTest = s.remoteTest := rfl
@[simp] theorem State.compositorEvent_blank (v : View) (ns : List TileId) : (s.compositorEvent v ns).blank = s.blank := rfl
@[simp] theorem State.compositorEvent_choices (v : View) (ns : List TileId) : (s.compositorEvent v ns).choices = s.choices := rfl
@[simp] theorem State.compositorEvent_pending (v : View) (ns : List TileId) : (s.compositorEvent v ns).pending = s.pending := rfl

/-! ### What the updates write -/

@[simp] theorem State.modifyPort_ports (p : PortId) (f : PortUnit → PortUnit) :
    (s.modifyPort p f).ports = s.ports.set p (f s.ports[p]) := rfl
@[simp] theorem State.setRail_rail (r : RailState) : (s.setRail r).rail = { s.rail with state := r } := rfl
@[simp] theorem State.setAttempts_rail (n : Nat) : (s.setAttempts n).rail = { s.rail with attempts := n } := rfl
@[simp] theorem State.setEntry_windows (i : WindowId) (e : Option Window) :
    (s.setEntry i e).windows = s.windows.set i e := rfl
@[simp] theorem State.setPattern_pattern (pt : Pattern) : (s.setPattern pt).pattern = some pt := rfl
@[simp] theorem State.startPattern_pattern (src : SoundSource) (e : ToneId) :
    (s.startPattern src e).pattern = some ⟨src, e, .on s.tones[e].onTicks, 0⟩ := rfl
@[simp] theorem State.dropChime_pattern : s.dropChime.pattern = none := rfl
@[simp] theorem State.dropChime_chimes : s.dropChime.chimes = s.chimes.tail := rfl
@[simp] theorem State.removeRecord_alerts (src : Source) (code : Byte) :
    (s.removeRecord src code).alerts = s.alerts.filter fun a => !a.isFor src code := rfl
@[simp] theorem State.changeRecord_alerts (src : Source) (code : Byte) (f : Alert → Alert) :
    (s.changeRecord src code f).alerts = s.alerts.map fun a => if a.isFor src code then f a else a := rfl

end Sys2Proof.Machine
end

