-- ==== Sys2Proof/Laws/Ports.lean ====
section
/-!
SUPPORT. What the operations on Port Units do, port by port: `modifyPort`, `mapPorts` and the operations
made of them, the start of a transmission, and the fields each Port Unit operation leaves alone.
-/

namespace Sys2Proof.Machine

variable (s : State)

/-! ### One port, and all ports -/

@[simp] theorem State.modifyPort_port_self (p : PortId) (f : PortUnit → PortUnit) :
    (s.modifyPort p f).ports[(p : Nat)] = f s.ports[(p : Nat)] := by
  simp [State.modifyPort]

theorem State.modifyPort_port_ne {p q : PortId} (h : q ≠ p) (f : PortUnit → PortUnit) :
    (s.modifyPort p f).ports[(q : Nat)] = s.ports[(q : Nat)] := by
  have h' : (p : Nat) ≠ q := fun e => h (Fin.ext e.symm)
  simp [State.modifyPort, h']

theorem State.modifyPort_port (p q : PortId) (f : PortUnit → PortUnit) :
    (s.modifyPort p f).ports[(q : Nat)] = if q = p then f s.ports[(q : Nat)] else s.ports[(q : Nat)] := by
  split
  · next h => subst h; simp
  · next h => exact s.modifyPort_port_ne h f

@[simp] theorem State.mapPorts_port (q : PortId) (f : PortId → PortUnit → PortUnit) :
    (s.mapPorts f).ports[(q : Nat)] = f q s.ports[(q : Nat)] := by
  fin_cases q <;> rfl

@[simp] theorem State.finish_port (q : PortId) :
    s.finish.ports[(q : Nat)] = s.ports[(q : Nat)].startTx := s.mapPorts_port q _

@[simp] theorem State.deliver_port (q : PortId) (n : Notice) :
    (s.deliver n).ports[(q : Nat)] = s.ports[(q : Nat)].takeNotice q n := s.mapPorts_port q _

@[simp] theorem State.endWaits_port (q : PortId) (st : Status) (ends : WindowId → Bool) :
    (s.endWaits st ends).ports[(q : Nat)] = match s.ports[(q : Nat)].wait with
      | some w => if ends w.window then s.ports[(q : Nat)].endWait st else s.ports[(q : Nat)]
      | none => s.ports[(q : Nat)] := s.mapPorts_port q _

@[simp] theorem State.refuse_port_self (p : PortId) (tag code : Byte) (st : Status) :
    (s.refuse p tag code st).ports[(p : Nat)] = s.ports[(p : Nat)].answer tag code st [] :=
  s.modifyPort_port_self p _

/-! ### The fields a Port Unit operation leaves alone -/

@[simp] theorem PortUnit.startTx_rx (u : PortUnit) : u.startTx.rx = u.rx := by
  unfold PortUnit.startTx; split_ifs <;> rfl
@[simp] theorem PortUnit.startTx_state (u : PortUnit) : u.startTx.state = u.state := by
  unfold PortUnit.startTx; split_ifs <;> rfl
@[simp] theorem PortUnit.startTx_wait (u : PortUnit) : u.startTx.wait = u.wait := by
  unfold PortUnit.startTx; split_ifs <;> rfl
@[simp] theorem PortUnit.startTx_keepalive (u : PortUnit) : u.startTx.keepalive = u.keepalive := by
  unfold PortUnit.startTx; split_ifs <;> rfl
@[simp] theorem PortUnit.startTx_keepaliveCount (u : PortUnit) :
    u.startTx.keepaliveCount = u.keepaliveCount := by
  unfold PortUnit.startTx; split_ifs <;> rfl
@[simp] theorem PortUnit.startTx_lossAction (u : PortUnit) : u.startTx.lossAction = u.lossAction := by
  unfold PortUnit.startTx; split_ifs <;> rfl
@[simp] theorem PortUnit.startTx_noticesEnabled (u : PortUnit) :
    u.startTx.noticesEnabled = u.noticesEnabled := by
  unfold PortUnit.startTx; split_ifs <;> rfl
@[simp] theorem PortUnit.startTx_flags (u : PortUnit) : u.startTx.flags = u.flags := by
  unfold PortUnit.startTx; split_ifs <;> rfl
@[simp] theorem PortUnit.startTx_noticeCount (u : PortUnit) : u.startTx.noticeCount = u.noticeCount := by
  unfold PortUnit.startTx; split_ifs <;> rfl
@[simp] theorem PortUnit.startTx_responses (u : PortUnit) : u.startTx.responses = u.responses := by
  unfold PortUnit.startTx; split_ifs <;> rfl
@[simp] theorem PortUnit.startTx_notices (u : PortUnit) : u.startTx.notices = u.notices := by
  unfold PortUnit.startTx; split_ifs <;> rfl
@[simp] theorem PortUnit.startTx_filters (u : PortUnit) : u.startTx.filters = u.filters := by
  unfold PortUnit.startTx; split_ifs <;> rfl
@[simp] theorem PortUnit.startTx_lineEnd (u : PortUnit) : u.startTx.lineEnd = u.lineEnd := by
  unfold PortUnit.startTx; split_ifs <;> rfl

/-- A transmitter that is busy, or that has nothing to send, stays as it is. -/
theorem PortUnit.startTx_of_quiet (u : PortUnit) (h : u.tx ≠ .free ∨ u.responses = [] ∧ u.notices = []) :
    u.startTx = u := by
  unfold PortUnit.startTx
  rcases h with h | ⟨h₁, h₂⟩
  · simp [h]
  · simp [h₁, h₂]

@[simp] theorem PortUnit.startTx_startTx (u : PortUnit) : u.startTx.startTx = u.startTx := by
  unfold PortUnit.startTx
  split_ifs <;> simp_all

/-- A notice is taken by one of the four lines of R199. -/
theorem PortUnit.takeNotice_cases (p : PortId) (n : Notice) (u : PortUnit) :
    (u.receives p n = false ∧ u.takeNotice p n = u) ∨
    (u.receives p n = true ∧ u.noticesEnabled = true ∧ u.notices.length < 8 ∧
      u.takeNotice p n =
        { u with noticeCount := u.noticeCount + 1, notices := u.notices ++ [⟨u.noticeCount + 1, n⟩] }) ∨
    (u.receives p n = true ∧ u.noticesEnabled = true ∧ ¬u.notices.length < 8 ∧
      u.takeNotice p n =
        { u with noticeCount := u.noticeCount + 1, flags := { u.flags with noticesLost := true } }) ∨
    (u.receives p n = true ∧ u.noticesEnabled = false ∧
      u.takeNotice p n =
        { u with noticeCount := u.noticeCount + 1, flags := { u.flags with changesPending := true } }) := by
  unfold PortUnit.takeNotice
  split_ifs with h1 h2 h3 <;>
    simp_all [PortUnit.setNoticesLost, PortUnit.setChangesPending]

/-- What a notice can change in a Port Unit: its notice queue, notice count and two flags. -/
theorem PortUnit.takeNotice_frame (p : PortId) (n : Notice) (u : PortUnit) :
    ∃ c q f, u.takeNotice p n = { u with noticeCount := c, notices := q, flags := f } := by
  rcases u.takeNotice_cases p n with ⟨_, h⟩ | ⟨_, _, _, h⟩ | ⟨_, _, _, h⟩ | ⟨_, _, h⟩ <;>
    exact ⟨_, _, _, h⟩

/-- The end of a wait changes the wait and the response queue alone. -/
theorem PortUnit.endWait_frame (st : Status) (u : PortUnit) :
    ∃ w q, u.endWait st = { u with wait := w, responses := q } := by
  unfold PortUnit.endWait
  split <;> exact ⟨_, _, rfl⟩

@[simp] theorem PortUnit.endWait_none (st : Status) (u : PortUnit) (h : u.wait = none) :
    u.endWait st = u := by
  simp [PortUnit.endWait, h]

end Sys2Proof.Machine
end

