-- ==== Sys2Proof/Laws/Frame.lean ====
section
/-!
SUPPORT. What the compound operations leave alone: the arbiter, the hold, the sounder's choice, the list's
operations, list events, composition events and the drive's reaction to them. Each `…_frame` says which
fields can differ after the operation; the lemmas after it give the others one by one.
-/

namespace Sys2Proof.Machine

/-- Two states with equal fields are equal. -/
theorem State.ext_fields {s t : State}
    (h_time : s.time = t.time)
    (h_windows : s.windows = t.windows)
    (h_panel : s.panel = t.panel)
    (h_tiles : s.tiles = t.tiles)
    (h_engines : s.engines = t.engines)
    (h_refreshPeriod : s.refreshPeriod = t.refreshPeriod)
    (h_refreshCount : s.refreshCount = t.refreshCount)
    (h_rail : s.rail = t.rail)
    (h_powerGood : s.powerGood = t.powerGood)
    (h_alerts : s.alerts = t.alerts)
    (h_shelvingDue : s.shelvingDue = t.shelvingDue)
    (h_bandHeight : s.bandHeight = t.bandHeight)
    (h_tones : s.tones = t.tones)
    (h_chimes : s.chimes = t.chimes)
    (h_pattern : s.pattern = t.pattern)
    (h_keys : s.keys = t.keys)
    (h_ports : s.ports = t.ports)
    (h_supervisor : s.supervisor = t.supervisor)
    (h_remoteTest : s.remoteTest = t.remoteTest)
    (h_blank : s.blank = t.blank)
    (h_choices : s.choices = t.choices)
    (h_pending : s.pending = t.pending) : s = t := by
  cases s; cases t; simp_all

variable (s : State)

/-! ### The arbiter and the hold -/

theorem State.handOne_frame :
    s.handOne = { s with engines := (s.handOne).engines, tiles := (s.handOne).tiles } := by
  unfold State.handOne
  split
  · split <;> rfl
  · rfl

@[simp] theorem State.handOne_time : (s.handOne).time = s.time := by
  rw [handOne_frame]
@[simp] theorem State.handOne_windows : (s.handOne).windows = s.windows := by
  rw [handOne_frame]
@[simp] theorem State.handOne_panel : (s.handOne).panel = s.panel := by
  rw [handOne_frame]
@[simp] theorem State.handOne_refreshPeriod : (s.handOne).refreshPeriod = s.refreshPeriod := by
  rw [handOne_frame]
@[simp] theorem State.handOne_refreshCount : (s.handOne).refreshCount = s.refreshCount := by
  rw [handOne_frame]
@[simp] theorem State.handOne_rail : (s.handOne).rail = s.rail := by
  rw [handOne_frame]
@[simp] theorem State.handOne_powerGood : (s.handOne).powerGood = s.powerGood := by
  rw [handOne_frame]
@[simp] theorem State.handOne_alerts : (s.handOne).alerts = s.alerts := by
  rw [handOne_frame]
@[simp] theorem State.handOne_shelvingDue : (s.handOne).shelvingDue = s.shelvingDue := by
  rw [handOne_frame]
@[simp] theorem State.handOne_bandHeight : (s.handOne).bandHeight = s.bandHeight := by
  rw [handOne_frame]
@[simp] theorem State.handOne_tones : (s.handOne).tones = s.tones := by
  rw [handOne_frame]
@[simp] theorem State.handOne_chimes : (s.handOne).chimes = s.chimes := by
  rw [handOne_frame]
@[simp] theorem State.handOne_pattern : (s.handOne).pattern = s.pattern := by
  rw [handOne_frame]
@[simp] theorem State.handOne_keys : (s.handOne).keys = s.keys := by
  rw [handOne_frame]
@[simp] theorem State.handOne_ports : (s.handOne).ports = s.ports := by
  rw [handOne_frame]
@[simp] theorem State.handOne_supervisor : (s.handOne).supervisor = s.supervisor := by
  rw [handOne_frame]
@[simp] theorem State.handOne_remoteTest : (s.handOne).remoteTest = s.remoteTest := by
  rw [handOne_frame]
@[simp] theorem State.handOne_blank : (s.handOne).blank = s.blank := by
  rw [handOne_frame]
@[simp] theorem State.handOne_choices : (s.handOne).choices = s.choices := by
  rw [handOne_frame]
@[simp] theorem State.handOne_pending : (s.handOne).pending = s.pending := by
  rw [handOne_frame]

theorem State.arbiter_frame :
    s.arbiter = { s with engines := (s.arbiter).engines, tiles := (s.arbiter).tiles } := by
  apply State.ext_fields <;> simp [State.arbiter]

@[simp] theorem State.arbiter_time : (s.arbiter).time = s.time := by
  rw [arbiter_frame]
@[simp] theorem State.arbiter_windows : (s.arbiter).windows = s.windows := by
  rw [arbiter_frame]
@[simp] theorem State.arbiter_panel : (s.arbiter).panel = s.panel := by
  rw [arbiter_frame]
@[simp] theorem State.arbiter_refreshPeriod : (s.arbiter).refreshPeriod = s.refreshPeriod := by
  rw [arbiter_frame]
@[simp] theorem State.arbiter_refreshCount : (s.arbiter).refreshCount = s.refreshCount := by
  rw [arbiter_frame]
@[simp] theorem State.arbiter_rail : (s.arbiter).rail = s.rail := by
  rw [arbiter_frame]
@[simp] theorem State.arbiter_powerGood : (s.arbiter).powerGood = s.powerGood := by
  rw [arbiter_frame]
@[simp] theorem State.arbiter_alerts : (s.arbiter).alerts = s.alerts := by
  rw [arbiter_frame]
@[simp] theorem State.arbiter_shelvingDue : (s.arbiter).shelvingDue = s.shelvingDue := by
  rw [arbiter_frame]
@[simp] theorem State.arbiter_bandHeight : (s.arbiter).bandHeight = s.bandHeight := by
  rw [arbiter_frame]
@[simp] theorem State.arbiter_tones : (s.arbiter).tones = s.tones := by
  rw [arbiter_frame]
@[simp] theorem State.arbiter_chimes : (s.arbiter).chimes = s.chimes := by
  rw [arbiter_frame]
@[simp] theorem State.arbiter_pattern : (s.arbiter).pattern = s.pattern := by
  rw [arbiter_frame]
@[simp] theorem State.arbiter_keys : (s.arbiter).keys = s.keys := by
  rw [arbiter_frame]
@[simp] theorem State.arbiter_ports : (s.arbiter).ports = s.ports := by
  rw [arbiter_frame]
@[simp] theorem State.arbiter_supervisor : (s.arbiter).supervisor = s.supervisor := by
  rw [arbiter_frame]
@[simp] theorem State.arbiter_remoteTest : (s.arbiter).remoteTest = s.remoteTest := by
  rw [arbiter_frame]
@[simp] theorem State.arbiter_blank : (s.arbiter).blank = s.blank := by
  rw [arbiter_frame]
@[simp] theorem State.arbiter_choices : (s.arbiter).choices = s.choices := by
  rw [arbiter_frame]
@[simp] theorem State.arbiter_pending : (s.arbiter).pending = s.pending := by
  rw [arbiter_frame]

theorem State.checkHold_frame :
    s.checkHold = { s with rail := (s.checkHold).rail } := by
  unfold State.checkHold
  split
  · split
    · rfl
    · split <;> rfl
  · rfl

@[simp] theorem State.checkHold_time : (s.checkHold).time = s.time := by
  rw [checkHold_frame]
@[simp] theorem State.checkHold_windows : (s.checkHold).windows = s.windows := by
  rw [checkHold_frame]
@[simp] theorem State.checkHold_panel : (s.checkHold).panel = s.panel := by
  rw [checkHold_frame]
@[simp] theorem State.checkHold_tiles : (s.checkHold).tiles = s.tiles := by
  rw [checkHold_frame]
@[simp] theorem State.checkHold_engines : (s.checkHold).engines = s.engines := by
  rw [checkHold_frame]
@[simp] theorem State.checkHold_refreshPeriod : (s.checkHold).refreshPeriod = s.refreshPeriod := by
  rw [checkHold_frame]
@[simp] theorem State.checkHold_refreshCount : (s.checkHold).refreshCount = s.refreshCount := by
  rw [checkHold_frame]
@[simp] theorem State.checkHold_powerGood : (s.checkHold).powerGood = s.powerGood := by
  rw [checkHold_frame]
@[simp] theorem State.checkHold_alerts : (s.checkHold).alerts = s.alerts := by
  rw [checkHold_frame]
@[simp] theorem State.checkHold_shelvingDue : (s.checkHold).shelvingDue = s.shelvingDue := by
  rw [checkHold_frame]
@[simp] theorem State.checkHold_bandHeight : (s.checkHold).bandHeight = s.bandHeight := by
  rw [checkHold_frame]
@[simp] theorem State.checkHold_tones : (s.checkHold).tones = s.tones := by
  rw [checkHold_frame]
@[simp] theorem State.checkHold_chimes : (s.checkHold).chimes = s.chimes := by
  rw [checkHold_frame]
@[simp] theorem State.checkHold_pattern : (s.checkHold).pattern = s.pattern := by
  rw [checkHold_frame]
@[simp] theorem State.checkHold_keys : (s.checkHold).keys = s.keys := by
  rw [checkHold_frame]
@[simp] theorem State.checkHold_ports : (s.checkHold).ports = s.ports := by
  rw [checkHold_frame]
@[simp] theorem State.checkHold_supervisor : (s.checkHold).supervisor = s.supervisor := by
  rw [checkHold_frame]
@[simp] theorem State.checkHold_remoteTest : (s.checkHold).remoteTest = s.remoteTest := by
  rw [checkHold_frame]
@[simp] theorem State.checkHold_blank : (s.checkHold).blank = s.blank := by
  rw [checkHold_frame]
@[simp] theorem State.checkHold_choices : (s.checkHold).choices = s.choices := by
  rw [checkHold_frame]
@[simp] theorem State.checkHold_pending : (s.checkHold).pending = s.pending := by
  rw [checkHold_frame]

/-! ### The sounder's choice -/

theorem State.chooseSource_frame :
    s.chooseSource = { s with pattern := (s.chooseSource).pattern, chimes := (s.chooseSource).chimes } := by
  unfold State.chooseSource
  split
  · rfl
  · split
    · rfl
    · split_ifs <;> rfl

@[simp] theorem State.chooseSource_time : (s.chooseSource).time = s.time := by
  rw [chooseSource_frame]
@[simp] theorem State.chooseSource_windows : (s.chooseSource).windows = s.windows := by
  rw [chooseSource_frame]
@[simp] theorem State.chooseSource_panel : (s.chooseSource).panel = s.panel := by
  rw [chooseSource_frame]
@[simp] theorem State.chooseSource_tiles : (s.chooseSource).tiles = s.tiles := by
  rw [chooseSource_frame]
@[simp] theorem State.chooseSource_engines : (s.chooseSource).engines = s.engines := by
  rw [chooseSource_frame]
@[simp] theorem State.chooseSource_refreshPeriod : (s.chooseSource).refreshPeriod = s.refreshPeriod := by
  rw [chooseSource_frame]
@[simp] theorem State.chooseSource_refreshCount : (s.chooseSource).refreshCount = s.refreshCount := by
  rw [chooseSource_frame]
@[simp] theorem State.chooseSource_rail : (s.chooseSource).rail = s.rail := by
  rw [chooseSource_frame]
@[simp] theorem State.chooseSource_powerGood : (s.chooseSource).powerGood = s.powerGood := by
  rw [chooseSource_frame]
@[simp] theorem State.chooseSource_alerts : (s.chooseSource).alerts = s.alerts := by
  rw [chooseSource_frame]
@[simp] theorem State.chooseSource_shelvingDue : (s.chooseSource).shelvingDue = s.shelvingDue := by
  rw [chooseSource_frame]
@[simp] theorem State.chooseSource_bandHeight : (s.chooseSource).bandHeight = s.bandHeight := by
  rw [chooseSource_frame]
@[simp] theorem State.chooseSource_tones : (s.chooseSource).tones = s.tones := by
  rw [chooseSource_frame]
@[simp] theorem State.chooseSource_keys : (s.chooseSource).keys = s.keys := by
  rw [chooseSource_frame]
@[simp] theorem State.chooseSource_ports : (s.chooseSource).ports = s.ports := by
  rw [chooseSource_frame]
@[simp] theorem State.chooseSource_supervisor : (s.chooseSource).supervisor = s.supervisor := by
  rw [chooseSource_frame]
@[simp] theorem State.chooseSource_remoteTest : (s.chooseSource).remoteTest = s.remoteTest := by
  rw [chooseSource_frame]
@[simp] theorem State.chooseSource_blank : (s.chooseSource).blank = s.blank := by
  rw [chooseSource_frame]
@[simp] theorem State.chooseSource_choices : (s.chooseSource).choices = s.choices := by
  rw [chooseSource_frame]
@[simp] theorem State.chooseSource_pending : (s.chooseSource).pending = s.pending := by
  rw [chooseSource_frame]

theorem State.heardSince_frame (b : State) :
    State.heardSince b s = { s with pattern := (State.heardSince b s).pattern, chimes := (State.heardSince b s).chimes } := by
  unfold State.heardSince
  split
  · rfl
  · exact s.chooseSource_frame

@[simp] theorem State.heardSince_time (b : State) : (State.heardSince b s).time = s.time := by
  rw [heardSince_frame]
@[simp] theorem State.heardSince_windows (b : State) : (State.heardSince b s).windows = s.windows := by
  rw [heardSince_frame]
@[simp] theorem State.heardSince_panel (b : State) : (State.heardSince b s).panel = s.panel := by
  rw [heardSince_frame]
@[simp] theorem State.heardSince_tiles (b : State) : (State.heardSince b s).tiles = s.tiles := by
  rw [heardSince_frame]
@[simp] theorem State.heardSince_engines (b : State) : (State.heardSince b s).engines = s.engines := by
  rw [heardSince_frame]
@[simp] theorem State.heardSince_refreshPeriod (b : State) : (State.heardSince b s).refreshPeriod = s.refreshPeriod := by
  rw [heardSince_frame]
@[simp] theorem State.heardSince_refreshCount (b : State) : (State.heardSince b s).refreshCount = s.refreshCount := by
  rw [heardSince_frame]
@[simp] theorem State.heardSince_rail (b : State) : (State.heardSince b s).rail = s.rail := by
  rw [heardSince_frame]
@[simp] theorem State.heardSince_powerGood (b : State) : (State.heardSince b s).powerGood = s.powerGood := by
  rw [heardSince_frame]
@[simp] theorem State.heardSince_alerts (b : State) : (State.heardSince b s).alerts = s.alerts := by
  rw [heardSince_frame]
@[simp] theorem State.heardSince_shelvingDue (b : State) : (State.heardSince b s).shelvingDue = s.shelvingDue := by
  rw [heardSince_frame]
@[simp] theorem State.heardSince_bandHeight (b : State) : (State.heardSince b s).bandHeight = s.bandHeight := by
  rw [heardSince_frame]
@[simp] theorem State.heardSince_tones (b : State) : (State.heardSince b s).tones = s.tones := by
  rw [heardSince_frame]
@[simp] theorem State.heardSince_keys (b : State) : (State.heardSince b s).keys = s.keys := by
  rw [heardSince_frame]
@[simp] theorem State.heardSince_ports (b : State) : (State.heardSince b s).ports = s.ports := by
  rw [heardSince_frame]
@[simp] theorem State.heardSince_supervisor (b : State) : (State.heardSince b s).supervisor = s.supervisor := by
  rw [heardSince_frame]
@[simp] theorem State.heardSince_remoteTest (b : State) : (State.heardSince b s).remoteTest = s.remoteTest := by
  rw [heardSince_frame]
@[simp] theorem State.heardSince_blank (b : State) : (State.heardSince b s).blank = s.blank := by
  rw [heardSince_frame]
@[simp] theorem State.heardSince_choices (b : State) : (State.heardSince b s).choices = s.choices := by
  rw [heardSince_frame]
@[simp] theorem State.heardSince_pending (b : State) : (State.heardSince b s).pending = s.pending := by
  rw [heardSince_frame]

/-! ### The list's operations -/

/-- The operation changes the alert list and the Port Units alone. -/
def ListOnly (f : State → State) : Prop :=
  ∀ s : State, f s = { s with alerts := (f s).alerts, ports := (f s).ports }

theorem ListOnly.time {f : State → State} (h : ListOnly f) (s : State) : (f s).time = s.time := by
  rw [h s]
theorem ListOnly.windows {f : State → State} (h : ListOnly f) (s : State) : (f s).windows = s.windows := by
  rw [h s]
theorem ListOnly.panel {f : State → State} (h : ListOnly f) (s : State) : (f s).panel = s.panel := by
  rw [h s]
theorem ListOnly.tiles {f : State → State} (h : ListOnly f) (s : State) : (f s).tiles = s.tiles := by
  rw [h s]
theorem ListOnly.engines {f : State → State} (h : ListOnly f) (s : State) : (f s).engines = s.engines := by
  rw [h s]
theorem ListOnly.refreshPeriod {f : State → State} (h : ListOnly f) (s : State) : (f s).refreshPeriod = s.refreshPeriod := by
  rw [h s]
theorem ListOnly.refreshCount {f : State → State} (h : ListOnly f) (s : State) : (f s).refreshCount = s.refreshCount := by
  rw [h s]
theorem ListOnly.rail {f : State → State} (h : ListOnly f) (s : State) : (f s).rail = s.rail := by
  rw [h s]
theorem ListOnly.powerGood {f : State → State} (h : ListOnly f) (s : State) : (f s).powerGood = s.powerGood := by
  rw [h s]
theorem ListOnly.shelvingDue {f : State → State} (h : ListOnly f) (s : State) : (f s).shelvingDue = s.shelvingDue := by
  rw [h s]
theorem ListOnly.bandHeight {f : State → State} (h : ListOnly f) (s : State) : (f s).bandHeight = s.bandHeight := by
  rw [h s]
theorem ListOnly.tones {f : State → State} (h : ListOnly f) (s : State) : (f s).tones = s.tones := by
  rw [h s]
theorem ListOnly.chimes {f : State → State} (h : ListOnly f) (s : State) : (f s).chimes = s.chimes := by
  rw [h s]
theorem ListOnly.pattern {f : State → State} (h : ListOnly f) (s : State) : (f s).pattern = s.pattern := by
  rw [h s]
theorem ListOnly.keys {f : State → State} (h : ListOnly f) (s : State) : (f s).keys = s.keys := by
  rw [h s]
theorem ListOnly.supervisor {f : State → State} (h : ListOnly f) (s : State) : (f s).supervisor = s.supervisor := by
  rw [h s]
theorem ListOnly.remoteTest {f : State → State} (h : ListOnly f) (s : State) : (f s).remoteTest = s.remoteTest := by
  rw [h s]
theorem ListOnly.blank {f : State → State} (h : ListOnly f) (s : State) : (f s).blank = s.blank := by
  rw [h s]
theorem ListOnly.choices {f : State → State} (h : ListOnly f) (s : State) : (f s).choices = s.choices := by
  rw [h s]
theorem ListOnly.pending {f : State → State} (h : ListOnly f) (s : State) : (f s).pending = s.pending := by
  rw [h s]

theorem ListOnly.comp {f g : State → State} (hf : ListOnly f) (hg : ListOnly g) :
    ListOnly fun s => g (f s) := by
  intro s
  apply State.ext_fields <;>
    simp [hf.time, hg.time, hf.windows, hg.windows, hf.panel, hg.panel, hf.tiles, hg.tiles, hf.engines, hg.engines, hf.refreshPeriod, hg.refreshPeriod, hf.refreshCount, hg.refreshCount, hf.rail, hg.rail, hf.powerGood, hg.powerGood, hf.shelvingDue, hg.shelvingDue, hf.bandHeight, hg.bandHeight, hf.tones, hg.tones, hf.chimes, hg.chimes, hf.pattern, hg.pattern, hf.keys, hg.keys, hf.supervisor, hg.supervisor, hf.remoteTest, hg.remoteTest, hf.blank, hg.blank, hf.choices, hg.choices, hf.pending, hg.pending]
theorem listOnly_id : ListOnly fun s => s := fun _ => rfl

theorem listOnly_foldl {α : Type} (l : List α) {f : State → α → State}
    (h : ∀ a, ListOnly fun s => f s a) : ListOnly fun s => l.foldl f s := by
  induction l with
  | nil => exact listOnly_id
  | cons a l ih => exact (h a).comp ih

theorem listOnly_noticeKept (k : NoticeKind) (a : Alert) : ListOnly (State.noticeKept k a) := fun _ => rfl

theorem listOnly_noticeRemoved (k : NoticeKind) (a : Alert) (b : Option Acker) :
    ListOnly (State.noticeRemoved k a b) := fun _ => rfl

theorem listOnly_raise (src : Source) (code : Byte) (x : RaiseArgs) : ListOnly (State.raise src code x) := by
  intro s
  unfold State.raise
  split <;> rfl

theorem listOnly_clear (src : Source) (code : Byte) : ListOnly (State.clear src code) := by
  intro s
  unfold State.clear
  split
  · rfl
  · split <;> rfl

theorem listOnly_acknowledge (b : Acker) (src : Source) (code : Byte) :
    ListOnly (State.acknowledge b src code) := by
  intro s
  unfold State.acknowledge
  split
  · rfl
  · split <;> rfl

theorem listOnly_shelve (src : Source) (code : Byte) (n : Nat) : ListOnly (State.shelve src code n) := by
  intro s
  unfold State.shelve
  split <;> rfl

theorem listOnly_unshelve (src : Source) (code : Byte) : ListOnly (State.unshelve src code) := by
  intro s
  unfold State.unshelve
  split
  · rfl
  · split <;> rfl

theorem listOnly_checkOverflow (n : Nat) : ListOnly (State.checkOverflow n) := by
  intro s
  unfold State.checkOverflow
  split
  · exact listOnly_clear _ _ s
  · rfl

theorem listOnly_silenceAll : ListOnly State.silenceAll := fun _ => rfl

theorem listOnly_silenceEnded (src : Source) (code : Byte) : ListOnly (State.silenceEnded src code) :=
  fun _ => rfl

theorem listOnly_raisePortLost (p : PortId) : ListOnly (State.raisePortLost p) := listOnly_raise _ _ _

theorem listOnly_raiseDriveFault : ListOnly State.raiseDriveFault := listOnly_raise _ _ _

theorem listOnly_raiseListOverflow : ListOnly State.raiseListOverflow := listOnly_raise _ _ _

theorem listOnly_clearPort (p : PortId) : ListOnly (State.clearPort p) := fun s =>
  ((listOnly_foldl _ fun c => listOnly_clear (.port p) c).comp (listOnly_checkOverflow _)) s

theorem listOnly_acknowledgeEligible : ListOnly State.acknowledgeEligible := fun s =>
  ((listOnly_foldl _ fun (k : Source × Byte) => listOnly_acknowledge .key k.1 k.2).comp (listOnly_checkOverflow _)) s

theorem listOnly_unshelveExpired : ListOnly State.unshelveExpired := fun s =>
  (listOnly_foldl _ fun (k : Source × Byte) => listOnly_unshelve k.1 k.2) s


/-! ### List events, and the drive's reaction -/

theorem State.listChange_frame {f : State → State} (h : ListOnly f) :
    s.listChange f = { s with alerts := (s.listChange f).alerts, ports := (s.listChange f).ports, tiles := (s.listChange f).tiles } := by
  apply State.ext_fields <;> simp [State.listChange, h.time, h.windows, h.panel, h.engines, h.refreshPeriod, h.refreshCount, h.rail, h.powerGood, h.shelvingDue, h.bandHeight, h.tones, h.chimes, h.pattern, h.keys, h.supervisor, h.remoteTest, h.blank, h.choices, h.pending]

@[simp] theorem State.listChange_time {f : State → State} (h : ListOnly f) : (s.listChange f).time = s.time := by
  rw [listChange_frame s h]
@[simp] theorem State.listChange_windows {f : State → State} (h : ListOnly f) : (s.listChange f).windows = s.windows := by
  rw [listChange_frame s h]
@[simp] theorem State.listChange_panel {f : State → State} (h : ListOnly f) : (s.listChange f).panel = s.panel := by
  rw [listChange_frame s h]
@[simp] theorem State.listChange_engines {f : State → State} (h : ListOnly f) : (s.listChange f).engines = s.engines := by
  rw [listChange_frame s h]
@[simp] theorem State.listChange_refreshPeriod {f : State → State} (h : ListOnly f) : (s.listChange f).refreshPeriod = s.refreshPeriod := by
  rw [listChange_frame s h]
@[simp] theorem State.listChange_refreshCount {f : State → State} (h : ListOnly f) : (s.listChange f).refreshCount = s.refreshCount := by
  rw [listChange_frame s h]
@[simp] theorem State.listChange_rail {f : State → State} (h : ListOnly f) : (s.listChange f).rail = s.rail := by
  rw [listChange_frame s h]
@[simp] theorem State.listChange_powerGood {f : State → State} (h : ListOnly f) : (s.listChange f).powerGood = s.powerGood := by
  rw [listChange_frame s h]
@[simp] theorem State.listChange_shelvingDue {f : State → State} (h : ListOnly f) : (s.listChange f).shelvingDue = s.shelvingDue := by
  rw [listChange_frame s h]
@[simp] theorem State.listChange_bandHeight {f : State → State} (h : ListOnly f) : (s.listChange f).bandHeight = s.bandHeight := by
  rw [listChange_frame s h]
@[simp] theorem State.listChange_tones {f : State → State} (h : ListOnly f) : (s.listChange f).tones = s.tones := by
  rw [listChange_frame s h]
@[simp] theorem State.listChange_chimes {f : State → State} (h : ListOnly f) : (s.listChange f).chimes = s.chimes := by
  rw [listChange_frame s h]
@[simp] theorem State.listChange_pattern {f : State → State} (h : ListOnly f) : (s.listChange f).pattern = s.pattern := by
  rw [listChange_frame s h]
@[simp] theorem State.listChange_keys {f : State → State} (h : ListOnly f) : (s.listChange f).keys = s.keys := by
  rw [listChange_frame s h]
@[simp] theorem State.listChange_supervisor {f : State → State} (h : ListOnly f) : (s.listChange f).supervisor = s.supervisor := by
  rw [listChange_frame s h]
@[simp] theorem State.listChange_remoteTest {f : State → State} (h : ListOnly f) : (s.listChange f).remoteTest = s.remoteTest := by
  rw [listChange_frame s h]
@[simp] theorem State.listChange_blank {f : State → State} (h : ListOnly f) : (s.listChange f).blank = s.blank := by
  rw [listChange_frame s h]
@[simp] theorem State.listChange_choices {f : State → State} (h : ListOnly f) : (s.listChange f).choices = s.choices := by
  rw [listChange_frame s h]
@[simp] theorem State.listChange_pending {f : State → State} (h : ListOnly f) : (s.listChange f).pending = s.pending := by
  rw [listChange_frame s h]

theorem State.reachOn_frame :
    s.reachOn = { s with alerts := (s.reachOn).alerts, ports := (s.reachOn).ports, tiles := (s.reachOn).tiles, rail := (s.reachOn).rail, engines := (s.reachOn).engines } := by
  apply State.ext_fields <;> simp [State.reachOn, listOnly_clear]

@[simp] theorem State.reachOn_time : (s.reachOn).time = s.time := by
  rw [reachOn_frame]
@[simp] theorem State.reachOn_windows : (s.reachOn).windows = s.windows := by
  rw [reachOn_frame]
@[simp] theorem State.reachOn_panel : (s.reachOn).panel = s.panel := by
  rw [reachOn_frame]
@[simp] theorem State.reachOn_refreshPeriod : (s.reachOn).refreshPeriod = s.refreshPeriod := by
  rw [reachOn_frame]
@[simp] theorem State.reachOn_refreshCount : (s.reachOn).refreshCount = s.refreshCount := by
  rw [reachOn_frame]
@[simp] theorem State.reachOn_powerGood : (s.reachOn).powerGood = s.powerGood := by
  rw [reachOn_frame]
@[simp] theorem State.reachOn_shelvingDue : (s.reachOn).shelvingDue = s.shelvingDue := by
  rw [reachOn_frame]
@[simp] theorem State.reachOn_bandHeight : (s.reachOn).bandHeight = s.bandHeight := by
  rw [reachOn_frame]
@[simp] theorem State.reachOn_tones : (s.reachOn).tones = s.tones := by
  rw [reachOn_frame]
@[simp] theorem State.reachOn_chimes : (s.reachOn).chimes = s.chimes := by
  rw [reachOn_frame]
@[simp] theorem State.reachOn_pattern : (s.reachOn).pattern = s.pattern := by
  rw [reachOn_frame]
@[simp] theorem State.reachOn_keys : (s.reachOn).keys = s.keys := by
  rw [reachOn_frame]
@[simp] theorem State.reachOn_supervisor : (s.reachOn).supervisor = s.supervisor := by
  rw [reachOn_frame]
@[simp] theorem State.reachOn_remoteTest : (s.reachOn).remoteTest = s.remoteTest := by
  rw [reachOn_frame]
@[simp] theorem State.reachOn_blank : (s.reachOn).blank = s.blank := by
  rw [reachOn_frame]
@[simp] theorem State.reachOn_choices : (s.reachOn).choices = s.choices := by
  rw [reachOn_frame]
@[simp] theorem State.reachOn_pending : (s.reachOn).pending = s.pending := by
  rw [reachOn_frame]

theorem State.enterRising_frame :
    s.enterRising = { s with alerts := (s.enterRising).alerts, ports := (s.enterRising).ports, tiles := (s.enterRising).tiles, rail := (s.enterRising).rail, engines := (s.enterRising).engines } := by
  unfold State.enterRising
  split
  · rw [reachOn_frame]
  · rfl

@[simp] theorem State.enterRising_time : (s.enterRising).time = s.time := by
  rw [enterRising_frame]
@[simp] theorem State.enterRising_windows : (s.enterRising).windows = s.windows := by
  rw [enterRising_frame]
@[simp] theorem State.enterRising_panel : (s.enterRising).panel = s.panel := by
  rw [enterRising_frame]
@[simp] theorem State.enterRising_refreshPeriod : (s.enterRising).refreshPeriod = s.refreshPeriod := by
  rw [enterRising_frame]
@[simp] theorem State.enterRising_refreshCount : (s.enterRising).refreshCount = s.refreshCount := by
  rw [enterRising_frame]
@[simp] theorem State.enterRising_powerGood : (s.enterRising).powerGood = s.powerGood := by
  rw [enterRising_frame]
@[simp] theorem State.enterRising_shelvingDue : (s.enterRising).shelvingDue = s.shelvingDue := by
  rw [enterRising_frame]
@[simp] theorem State.enterRising_bandHeight : (s.enterRising).bandHeight = s.bandHeight := by
  rw [enterRising_frame]
@[simp] theorem State.enterRising_tones : (s.enterRising).tones = s.tones := by
  rw [enterRising_frame]
@[simp] theorem State.enterRising_chimes : (s.enterRising).chimes = s.chimes := by
  rw [enterRising_frame]
@[simp] theorem State.enterRising_pattern : (s.enterRising).pattern = s.pattern := by
  rw [enterRising_frame]
@[simp] theorem State.enterRising_keys : (s.enterRising).keys = s.keys := by
  rw [enterRising_frame]
@[simp] theorem State.enterRising_supervisor : (s.enterRising).supervisor = s.supervisor := by
  rw [enterRising_frame]
@[simp] theorem State.enterRising_remoteTest : (s.enterRising).remoteTest = s.remoteTest := by
  rw [enterRising_frame]
@[simp] theorem State.enterRising_blank : (s.enterRising).blank = s.blank := by
  rw [enterRising_frame]
@[simp] theorem State.enterRising_choices : (s.enterRising).choices = s.choices := by
  rw [enterRising_frame]
@[simp] theorem State.enterRising_pending : (s.enterRising).pending = s.pending := by
  rw [enterRising_frame]

theorem State.driveReact_frame :
    s.driveReact = { s with alerts := (s.driveReact).alerts, ports := (s.driveReact).ports, tiles := (s.driveReact).tiles, rail := (s.driveReact).rail, engines := (s.driveReact).engines } := by
  unfold State.driveReact
  split
  · split
    · rw [enterRising_frame]
    · rfl
  · apply State.ext_fields <;> simp
  · rfl

@[simp] theorem State.driveReact_time : (s.driveReact).time = s.time := by
  rw [driveReact_frame]
@[simp] theorem State.driveReact_windows : (s.driveReact).windows = s.windows := by
  rw [driveReact_frame]
@[simp] theorem State.driveReact_panel : (s.driveReact).panel = s.panel := by
  rw [driveReact_frame]
@[simp] theorem State.driveReact_refreshPeriod : (s.driveReact).refreshPeriod = s.refreshPeriod := by
  rw [driveReact_frame]
@[simp] theorem State.driveReact_refreshCount : (s.driveReact).refreshCount = s.refreshCount := by
  rw [driveReact_frame]
@[simp] theorem State.driveReact_powerGood : (s.driveReact).powerGood = s.powerGood := by
  rw [driveReact_frame]
@[simp] theorem State.driveReact_shelvingDue : (s.driveReact).shelvingDue = s.shelvingDue := by
  rw [driveReact_frame]
@[simp] theorem State.driveReact_bandHeight : (s.driveReact).bandHeight = s.bandHeight := by
  rw [driveReact_frame]
@[simp] theorem State.driveReact_tones : (s.driveReact).tones = s.tones := by
  rw [driveReact_frame]
@[simp] theorem State.driveReact_chimes : (s.driveReact).chimes = s.chimes := by
  rw [driveReact_frame]
@[simp] theorem State.driveReact_pattern : (s.driveReact).pattern = s.pattern := by
  rw [driveReact_frame]
@[simp] theorem State.driveReact_keys : (s.driveReact).keys = s.keys := by
  rw [driveReact_frame]
@[simp] theorem State.driveReact_supervisor : (s.driveReact).supervisor = s.supervisor := by
  rw [driveReact_frame]
@[simp] theorem State.driveReact_remoteTest : (s.driveReact).remoteTest = s.remoteTest := by
  rw [driveReact_frame]
@[simp] theorem State.driveReact_blank : (s.driveReact).blank = s.blank := by
  rw [driveReact_frame]
@[simp] theorem State.driveReact_choices : (s.driveReact).choices = s.choices := by
  rw [driveReact_frame]
@[simp] theorem State.driveReact_pending : (s.driveReact).pending = s.pending := by
  rw [driveReact_frame]

theorem State.composed_frame (v : View) (ns : List TileId) :
    s.composed v ns = { s with alerts := (s.composed v ns).alerts, ports := (s.composed v ns).ports, tiles := (s.composed v ns).tiles, rail := (s.composed v ns).rail, engines := (s.composed v ns).engines } := by
  apply State.ext_fields <;> simp [State.composed]

@[simp] theorem State.composed_time (v : View) (ns : List TileId) : (s.composed v ns).time = s.time := by
  rw [composed_frame]
@[simp] theorem State.composed_windows (v : View) (ns : List TileId) : (s.composed v ns).windows = s.windows := by
  rw [composed_frame]
@[simp] theorem State.composed_panel (v : View) (ns : List TileId) : (s.composed v ns).panel = s.panel := by
  rw [composed_frame]
@[simp] theorem State.composed_refreshPeriod (v : View) (ns : List TileId) : (s.composed v ns).refreshPeriod = s.refreshPeriod := by
  rw [composed_frame]
@[simp] theorem State.composed_refreshCount (v : View) (ns : List TileId) : (s.composed v ns).refreshCount = s.refreshCount := by
  rw [composed_frame]
@[simp] theorem State.composed_powerGood (v : View) (ns : List TileId) : (s.composed v ns).powerGood = s.powerGood := by
  rw [composed_frame]
@[simp] theorem State.composed_shelvingDue (v : View) (ns : List TileId) : (s.composed v ns).shelvingDue = s.shelvingDue := by
  rw [composed_frame]
@[simp] theorem State.composed_bandHeight (v : View) (ns : List TileId) : (s.composed v ns).bandHeight = s.bandHeight := by
  rw [composed_frame]
@[simp] theorem State.composed_tones (v : View) (ns : List TileId) : (s.composed v ns).tones = s.tones := by
  rw [composed_frame]
@[simp] theorem State.composed_chimes (v : View) (ns : List TileId) : (s.composed v ns).chimes = s.chimes := by
  rw [composed_frame]
@[simp] theorem State.composed_pattern (v : View) (ns : List TileId) : (s.composed v ns).pattern = s.pattern := by
  rw [composed_frame]
@[simp] theorem State.composed_keys (v : View) (ns : List TileId) : (s.composed v ns).keys = s.keys := by
  rw [composed_frame]
@[simp] theorem State.composed_supervisor (v : View) (ns : List TileId) : (s.composed v ns).supervisor = s.supervisor := by
  rw [composed_frame]
@[simp] theorem State.composed_remoteTest (v : View) (ns : List TileId) : (s.composed v ns).remoteTest = s.remoteTest := by
  rw [composed_frame]
@[simp] theorem State.composed_blank (v : View) (ns : List TileId) : (s.composed v ns).blank = s.blank := by
  rw [composed_frame]
@[simp] theorem State.composed_choices (v : View) (ns : List TileId) : (s.composed v ns).choices = s.choices := by
  rw [composed_frame]
@[simp] theorem State.composed_pending (v : View) (ns : List TileId) : (s.composed v ns).pending = s.pending := by
  rw [composed_frame]

theorem State.listEvent_frame {f : State → State} (h : ListOnly f) :
    s.listEvent f = { s with alerts := (s.listEvent f).alerts, ports := (s.listEvent f).ports, tiles := (s.listEvent f).tiles, rail := (s.listEvent f).rail, engines := (s.listEvent f).engines } := by
  unfold State.listEvent
  split
  · apply State.ext_fields <;> simp [h.time, h.windows, h.panel, h.engines, h.refreshPeriod, h.refreshCount, h.rail, h.powerGood, h.shelvingDue, h.bandHeight, h.tones, h.chimes, h.pattern, h.keys, h.supervisor, h.remoteTest, h.blank, h.choices, h.pending, h.tiles]
  · apply State.ext_fields <;> simp [h]

@[simp] theorem State.listEvent_time {f : State → State} (h : ListOnly f) : (s.listEvent f).time = s.time := by
  rw [listEvent_frame s h]
@[simp] theorem State.listEvent_windows {f : State → State} (h : ListOnly f) : (s.listEvent f).windows = s.windows := by
  rw [listEvent_frame s h]
@[simp] theorem State.listEvent_panel {f : State → State} (h : ListOnly f) : (s.listEvent f).panel = s.panel := by
  rw [listEvent_frame s h]
@[simp] theorem State.listEvent_refreshPeriod {f : State → State} (h : ListOnly f) : (s.listEvent f).refreshPeriod = s.refreshPeriod := by
  rw [listEvent_frame s h]
@[simp] theorem State.listEvent_refreshCount {f : State → State} (h : ListOnly f) : (s.listEvent f).refreshCount = s.refreshCount := by
  rw [listEvent_frame s h]
@[simp] theorem State.listEvent_powerGood {f : State → State} (h : ListOnly f) : (s.listEvent f).powerGood = s.powerGood := by
  rw [listEvent_frame s h]
@[simp] theorem State.listEvent_shelvingDue {f : State → State} (h : ListOnly f) : (s.listEvent f).shelvingDue = s.shelvingDue := by
  rw [listEvent_frame s h]
@[simp] theorem State.listEvent_bandHeight {f : State → State} (h : ListOnly f) : (s.listEvent f).bandHeight = s.bandHeight := by
  rw [listEvent_frame s h]
@[simp] theorem State.listEvent_tones {f : State → State} (h : ListOnly f) : (s.listEvent f).tones = s.tones := by
  rw [listEvent_frame s h]
@[simp] theorem State.listEvent_chimes {f : State → State} (h : ListOnly f) : (s.listEvent f).chimes = s.chimes := by
  rw [listEvent_frame s h]
@[simp] theorem State.listEvent_pattern {f : State → State} (h : ListOnly f) : (s.listEvent f).pattern = s.pattern := by
  rw [listEvent_frame s h]
@[simp] theorem State.listEvent_keys {f : State → State} (h : ListOnly f) : (s.listEvent f).keys = s.keys := by
  rw [listEvent_frame s h]
@[simp] theorem State.listEvent_supervisor {f : State → State} (h : ListOnly f) : (s.listEvent f).supervisor = s.supervisor := by
  rw [listEvent_frame s h]
@[simp] theorem State.listEvent_remoteTest {f : State → State} (h : ListOnly f) : (s.listEvent f).remoteTest = s.remoteTest := by
  rw [listEvent_frame s h]
@[simp] theorem State.listEvent_blank {f : State → State} (h : ListOnly f) : (s.listEvent f).blank = s.blank := by
  rw [listEvent_frame s h]
@[simp] theorem State.listEvent_choices {f : State → State} (h : ListOnly f) : (s.listEvent f).choices = s.choices := by
  rw [listEvent_frame s h]
@[simp] theorem State.listEvent_pending {f : State → State} (h : ListOnly f) : (s.listEvent f).pending = s.pending := by
  rw [listEvent_frame s h]

theorem State.overlayEvent_frame (v : View) :
    s.overlayEvent v = { s with alerts := (s.overlayEvent v).alerts, ports := (s.overlayEvent v).ports, tiles := (s.overlayEvent v).tiles, rail := (s.overlayEvent v).rail, engines := (s.overlayEvent v).engines } := by
  apply State.ext_fields <;> simp [State.overlayEvent]

@[simp] theorem State.overlayEvent_time (v : View) : (s.overlayEvent v).time = s.time := by
  rw [overlayEvent_frame]
@[simp] theorem State.overlayEvent_windows (v : View) : (s.overlayEvent v).windows = s.windows := by
  rw [overlayEvent_frame]
@[simp] theorem State.overlayEvent_panel (v : View) : (s.overlayEvent v).panel = s.panel := by
  rw [overlayEvent_frame]
@[simp] theorem State.overlayEvent_refreshPeriod (v : View) : (s.overlayEvent v).refreshPeriod = s.refreshPeriod := by
  rw [overlayEvent_frame]
@[simp] theorem State.overlayEvent_refreshCount (v : View) : (s.overlayEvent v).refreshCount = s.refreshCount := by
  rw [overlayEvent_frame]
@[simp] theorem State.overlayEvent_powerGood (v : View) : (s.overlayEvent v).powerGood = s.powerGood := by
  rw [overlayEvent_frame]
@[simp] theorem State.overlayEvent_shelvingDue (v : View) : (s.overlayEvent v).shelvingDue = s.shelvingDue := by
  rw [overlayEvent_frame]
@[simp] theorem State.overlayEvent_bandHeight (v : View) : (s.overlayEvent v).bandHeight = s.bandHeight := by
  rw [overlayEvent_frame]
@[simp] theorem State.overlayEvent_tones (v : View) : (s.overlayEvent v).tones = s.tones := by
  rw [overlayEvent_frame]
@[simp] theorem State.overlayEvent_chimes (v : View) : (s.overlayEvent v).chimes = s.chimes := by
  rw [overlayEvent_frame]
@[simp] theorem State.overlayEvent_pattern (v : View) : (s.overlayEvent v).pattern = s.pattern := by
  rw [overlayEvent_frame]
@[simp] theorem State.overlayEvent_keys (v : View) : (s.overlayEvent v).keys = s.keys := by
  rw [overlayEvent_frame]
@[simp] theorem State.overlayEvent_supervisor (v : View) : (s.overlayEvent v).supervisor = s.supervisor := by
  rw [overlayEvent_frame]
@[simp] theorem State.overlayEvent_remoteTest (v : View) : (s.overlayEvent v).remoteTest = s.remoteTest := by
  rw [overlayEvent_frame]
@[simp] theorem State.overlayEvent_blank (v : View) : (s.overlayEvent v).blank = s.blank := by
  rw [overlayEvent_frame]
@[simp] theorem State.overlayEvent_choices (v : View) : (s.overlayEvent v).choices = s.choices := by
  rw [overlayEvent_frame]
@[simp] theorem State.overlayEvent_pending (v : View) : (s.overlayEvent v).pending = s.pending := by
  rw [overlayEvent_frame]

end Sys2Proof.Machine
end

