-- ==== Sys2Proof/Laws/Drawn.lean ====
section
/-!
SUPPORT. What a composition event and the drive's answer to it can change: `State.drawnTo` holds between a
state and what `composed` makes of it, `State.risenTo`'s parts hold of the rail's rise, and both go on through
the sounder's choice and a request's response.
-/

namespace Sys2Proof.Machine

/-! ### Port Units: notices and the end of a wait -/

theorem PortUnit.takeNotice_waiting (q : PortId) (n : Notice) (u : PortUnit) (w : Option Wait)
    (r : List Response) : PortUnit.takeNotice q n { u with wait := w, responses := r } =
      { u.takeNotice q n with wait := w, responses := r } := by
  unfold PortUnit.takeNotice
  have h : PortUnit.receives q n { u with wait := w, responses := r } = u.receives q n := rfl
  rw [h]
  split_ifs <;> rfl

theorem PortUnit.noticed_waiting (q : PortId) (ns : List Notice) (u : PortUnit) (w : Option Wait)
    (r : List Response) : PortUnit.noticed q ns { u with wait := w, responses := r } =
      { u.noticed q ns with wait := w, responses := r } := by
  unfold PortUnit.noticed
  induction ns generalizing u with
  | nil => rfl
  | cons n ns ih => rw [List.foldl_cons, PortUnit.takeNotice_waiting, ih, List.foldl_cons]

theorem PortUnit.noticed_kept (q : PortId) (ns : List Notice) (u : PortUnit) :
    (u.noticed q ns).wait = u.wait ∧ (u.noticed q ns).responses = u.responses := by
  have h := PortUnit.noticed_waiting q ns u u.wait u.responses
  have h1 : (PortUnit.noticed q ns { u with wait := u.wait, responses := u.responses }).wait = u.wait := by
    rw [h]
  have h2 : (PortUnit.noticed q ns { u with wait := u.wait, responses := u.responses }).responses =
      u.responses := by rw [h]
  exact ⟨h1, h2⟩

theorem PortUnit.noticed_append (q : PortId) (ns ms : List Notice) (u : PortUnit) :
    u.noticed q (ns ++ ms) = (u.noticed q ns).noticed q ms := by
  simp [PortUnit.noticed]

theorem PortUnit.endsWait_refl {closed : WindowId → Prop} (u : PortUnit) : u.endsWait closed u := Or.inl rfl

/-- A wait ends at most once, and takes nothing of the notices before or after it. -/
theorem PortUnit.endsWait.trans {c₁ c₂ : WindowId → Prop} {q : PortId} {ns ms : List Notice}
    {u v w : PortUnit} (hc : ∀ i, c₁ i → c₂ i) (h₁ : (u.noticed q ns).endsWait c₁ v)
    (h₂ : (v.noticed q ms).endsWait c₂ w) : (u.noticed q (ns ++ ms)).endsWait c₂ w := by
  rw [PortUnit.noticed_append]
  rcases h₁ with rfl | ⟨x, st, hw, hs, rfl⟩
  · exact h₂
  · rw [PortUnit.noticed_waiting] at h₂
    have hk := PortUnit.noticed_kept q ms (u.noticed q ns)
    rcases h₂ with rfl | ⟨y, _, hy, _⟩
    · exact Or.inr ⟨x, st, hk.1.trans hw, hs.imp id (And.imp_right (hc _)), by rw [hk.2]⟩
    · simp at hy

theorem PortUnit.endsWait_endWait_ok {closed : WindowId → Prop} (u : PortUnit) :
    u.endsWait closed (u.endWait .ok) := by
  unfold PortUnit.endWait
  split
  · exact u.endsWait_refl
  · next w hw => exact Or.inr ⟨w, .ok, hw, Or.inl rfl, rfl⟩

/-! ### handed -/

theorem State.handed_of_ports {s t : State} (h : t.ports = s.ports) : s.handed t [] := by
  intro q
  rw [h]
  exact PortUnit.endsWait_refl _

theorem State.handed_refl (s : State) : s.handed s [] := State.handed_of_ports rfl

theorem State.handed.trans {s t u : State} {ns ms : List Notice} (h₁ : s.handed t ns) (h₂ : t.handed u ms)
    (hw : u.windows = t.windows) : s.handed u (ns ++ ms) := by
  intro q
  exact PortUnit.endsWait.trans (by simp [hw]) (h₁ q) (h₂ q)

theorem State.handed_deliver (s : State) (n : Notice) : s.handed (s.deliver n) [n] := by
  intro q
  rw [Fin.getElem_fin, Fin.getElem_fin, State.deliver_port]
  exact PortUnit.endsWait_refl _

theorem State.handed_endWaits_ok (s : State) (ends : WindowId → Bool) :
    s.handed (s.endWaits .ok ends) [] := by
  intro q
  rw [Fin.getElem_fin, Fin.getElem_fin, State.endWaits_port]
  split
  · split
    · exact PortUnit.endsWait_endWait_ok _
    · exact PortUnit.endsWait_refl _
  · exact PortUnit.endsWait_refl _

/-- A port that does not wait has taken the notices, and nothing else has become of it. -/
theorem State.handed.port {s t : State} {ns : List Notice} (h : s.handed t ns) {p : PortId}
    (hp : s.ports[p].wait = none) : t.ports[p] = s.ports[p].noticed p ns := by
  rcases h p with h | ⟨w, _, hw, _⟩
  · exact h
  · rw [(PortUnit.noticed_kept p ns s.ports[p]).1, hp] at hw
    simp at hw

/-- The response of a request is queued beside what the event handed to the ports. -/
theorem State.handed.answered {s t : State} {ns : List Notice} (h : s.handed t ns) {p : PortId}
    (hp : s.ports[p].wait = none) (tag : Byte) (rc : RequestCode) (st : Status) (r : List Byte) :
    (s.answered p tag rc st r).handed (t.reply p tag rc (some (st, r))) ns := by
  intro q
  simp only [State.answered, State.reply, Fin.getElem_fin, State.modifyPort_port, State.modifyPort_windows]
  by_cases hq : q = p
  · subst hq
    have := h.port hp
    simp only [Fin.getElem_fin] at this
    simp only [if_true]
    rw [this]
    have h2 := PortUnit.noticed_waiting q ns s.ports[(q : Nat)] s.ports[(q : Nat)].wait
      (s.ports[(q : Nat)].responses ++ [⟨true, tag, rc.byte, st, r⟩])
    left
    have hk := PortUnit.noticed_kept q ns s.ports[(q : Nat)]
    refine Eq.trans ?_ h2.symm
    unfold PortUnit.answer
    rw [← hk.1, ← hk.2]
  · rw [if_neg hq, if_neg hq]
    exact h q

/-! ### Operations that end no wait and answer nothing -/

/-- Every port's wait and responses stand. -/
def State.quiet (s t : State) : Prop :=
  ∀ q : PortId, t.ports[q].wait = s.ports[q].wait ∧ t.ports[q].responses = s.ports[q].responses

theorem State.quiet_of_ports {s t : State} (h : t.ports = s.ports) : s.quiet t := by
  intro q
  rw [h]
  exact ⟨rfl, rfl⟩

theorem State.quiet_refl (s : State) : s.quiet s := State.quiet_of_ports rfl

theorem State.quiet.trans {s t u : State} (h₁ : s.quiet t) (h₂ : t.quiet u) : s.quiet u :=
  fun q => ⟨(h₂ q).1.trans (h₁ q).1, (h₂ q).2.trans (h₁ q).2⟩

theorem State.quiet_deliver (s : State) (n : Notice) : s.quiet (s.deliver n) := by
  intro q
  rw [Fin.getElem_fin, State.deliver_port]
  obtain ⟨c, x, f, h⟩ := PortUnit.takeNotice_frame q n s.ports[(q : Nat)]
  rw [h]
  exact ⟨rfl, rfl⟩

theorem State.quiet_finish (s : State) : s.quiet s.finish := by
  intro q
  rw [Fin.getElem_fin, State.finish_port]
  exact ⟨PortUnit.startTx_wait _, PortUnit.startTx_responses _⟩

theorem State.quiet_raise (s : State) (src : Source) (code : Byte) (x : RaiseArgs) :
    s.quiet (s.raise src code x) := by
  unfold State.raise
  split
  · exact State.quiet_deliver { s with alerts := s.alerts ++ [newAlert src code x s.now] } _
  · exact State.quiet_deliver (s.changeRecord src code _) _

theorem State.quiet_clear (s : State) (src : Source) (code : Byte) : s.quiet (s.clear src code) := by
  unfold State.clear
  split
  · exact s.quiet_refl
  · split
    · exact State.quiet_deliver (s.changeRecord src code _) _
    · exact State.quiet_deliver (s.removeRecord src code) _
    · exact s.quiet_refl

theorem State.quiet_acknowledge (s : State) (b : Acker) (src : Source) (code : Byte) :
    s.quiet (s.acknowledge b src code) := by
  unfold State.acknowledge
  split
  · exact s.quiet_refl
  · split
    · exact State.quiet_deliver (s.changeRecord src code _) _
    · exact State.quiet_deliver (s.removeRecord src code) _
    · exact s.quiet_refl

theorem State.quiet_shelve (s : State) (src : Source) (code : Byte) (n : Nat) : s.quiet (s.shelve src code n) := by
  unfold State.shelve
  split
  · exact s.quiet_refl
  · exact State.quiet_deliver (s.changeRecord src code _) _

theorem State.quiet_unshelve (s : State) (src : Source) (code : Byte) : s.quiet (s.unshelve src code) := by
  unfold State.unshelve
  split
  · exact s.quiet_refl
  · split
    · exact s.quiet_refl
    · exact State.quiet_deliver (s.changeRecord src code _) _

theorem State.quiet_checkOverflow (s : State) (n : Nat) : s.quiet (s.checkOverflow n) := by
  unfold State.checkOverflow
  split
  · exact s.quiet_clear _ _
  · exact s.quiet_refl

theorem State.quiet_foldl {α : Type} (f : State → α → State) (h : ∀ t a, State.quiet t (f t a))
    (l : List α) (s : State) : s.quiet (l.foldl f s) := by
  induction l generalizing s with
  | nil => exact s.quiet_refl
  | cons a l ih => exact (h s a).trans (ih _)

theorem State.quiet_clearPort (s : State) (p : PortId) : s.quiet (s.clearPort p) :=
  (State.quiet_foldl _ (fun t c => t.quiet_clear _ c) _ s).trans (State.quiet_checkOverflow _ _)

theorem State.quiet_acknowledgeEligible (s : State) : s.quiet s.acknowledgeEligible :=
  (State.quiet_foldl _ (fun t (k : Source × Byte) => t.quiet_acknowledge _ k.1 k.2) _ s).trans
    (State.quiet_checkOverflow _ _)

theorem State.quiet_unshelveExpired (s : State) : s.quiet s.unshelveExpired :=
  State.quiet_foldl _ (fun t (k : Source × Byte) => t.quiet_unshelve k.1 k.2) _ s

/-! ### Records -/

theorem isFor_iff {src : Source} {code : Byte} {a : Alert} :
    a.isFor src code = true ↔ a.source = src ∧ a.code = code := by simp [Alert.isFor]

theorem isFor_ne {src src' : Source} {code code' : Byte} (h : (src, code) ≠ (src', code')) {a : Alert}
    (ha : a.isFor src code = true) : a.isFor src' code' = false := by
  rw [isFor_iff] at ha
  rw [Bool.eq_false_iff]
  intro hb
  rw [isFor_iff] at hb
  exact h (by rw [← ha.1, ← ha.2, hb.1, hb.2])

theorem find?_map_other {src src' : Source} {code code' : Byte} (h : (src, code) ≠ (src', code'))
    (f : Alert → Alert) (hf : ∀ a, a.isFor src' code' = true → (f a).isFor src' code' = true)
    (l : List Alert) :
    (l.map fun a => if a.isFor src' code' then f a else a).find? (·.isFor src code) =
      l.find? (·.isFor src code) := by
  induction l with
  | nil => rfl
  | cons a l ih =>
    simp only [List.map_cons, List.find?_cons]
    by_cases ha : a.isFor src' code' = true
    · have h1 : (f a).isFor src code = false := isFor_ne (Ne.symm h) (hf a ha)
      have h2 : a.isFor src code = false := isFor_ne (Ne.symm h) ha
      simp [ha, h1, h2, ih]
    · simp only [Bool.not_eq_true] at ha
      simp only [ha, Bool.false_eq_true, if_false, ih]

theorem find?_filter_other {src src' : Source} {code code' : Byte} (h : (src, code) ≠ (src', code'))
    (l : List Alert) :
    (l.filter fun a => !a.isFor src' code').find? (·.isFor src code) = l.find? (·.isFor src code) := by
  rw [List.find?_filter]
  congr 1
  funext a
  by_cases ha : a.isFor src code = true
  · simp [ha, isFor_ne h ha]
  · simp only [Bool.not_eq_true] at ha
    simp [ha]

/-- A clear reaches the record it names and no other. -/
theorem State.clear_record_other {src src' : Source} {code code' : Byte}
    (h : (src, code) ≠ (src', code')) (s : State) :
    (s.clear src' code').record src code = s.record src code := by
  unfold State.clear
  split
  · rfl
  · next a ha =>
    have hid : a.isFor src' code' = true := by
      have := List.find?_some ha
      simpa using this
    split
    · exact find?_map_other h _ (fun _ _ => by simpa [Alert.isFor] using hid) _
    · exact find?_filter_other h _
    · rfl

theorem State.keepsRecords_refl (s : State) : s.keepsRecords s := fun _ _ _ => rfl

theorem State.keepsRecords.trans {s t u : State} (h₁ : s.keepsRecords t) (h₂ : t.keepsRecords u) :
    s.keepsRecords u := fun src code h => (h₂ src code h).trans (h₁ src code h)

theorem State.keepsRecords_of_alerts {s t : State} (h : t.alerts = s.alerts) : s.keepsRecords t := by
  intro src code _
  simp [State.record, h]

/-! ### One record of a list -/

theorem find?_map_self (src : Source) (code : Byte) (f : Alert → Alert)
    (hf : ∀ a, a.isFor src code = true → (f a).isFor src code = true) (l : List Alert) :
    (l.map fun a => if a.isFor src code then f a else a).find? (·.isFor src code) =
      (l.find? (·.isFor src code)).map f := by
  induction l with
  | nil => rfl
  | cons a l ih =>
    by_cases ha : a.isFor src code = true
    · simp [ha, hf a ha]
    · simp only [Bool.not_eq_true] at ha
      simp only [List.map_cons, ha, Bool.false_eq_true, if_false, List.find?_cons, ih]

theorem find?_filter_self (src : Source) (code : Byte) (l : List Alert) :
    (l.filter fun a => !a.isFor src code).find? (·.isFor src code) = none := by
  rw [List.find?_filter]
  simp

/-- The record under a source and code has that source and code. -/
theorem State.record_isFor {s : State} {src : Source} {code : Byte} {a : Alert}
    (h : s.record src code = some a) : a.source = src ∧ a.code = code := by
  have := List.find?_some h
  exact isFor_iff.mp (by simpa using this)

theorem State.record_of_alerts {s t : State} (h : t.alerts = s.alerts) (src : Source) (code : Byte) :
    t.record src code = s.record src code := by simp [State.record, h]

theorem State.changeRecord_record (s : State) (src : Source) (code : Byte) (f : Alert → Alert)
    (hf : ∀ a, a.isFor src code = true → (f a).isFor src code = true) (src' : Source) (code' : Byte) :
    (s.changeRecord src code f).record src' code' =
      if (src', code') = (src, code) then (s.record src code).map f else s.record src' code' := by
  split_ifs with h
  · obtain ⟨rfl, rfl⟩ := Prod.mk.inj h
    exact find?_map_self _ _ f hf _
  · exact find?_map_other h f hf _

theorem State.removeRecord_record (s : State) (src : Source) (code : Byte) (src' : Source) (code' : Byte) :
    (s.removeRecord src code).record src' code' =
      if (src', code') = (src, code) then none else s.record src' code' := by
  split_ifs with h
  · obtain ⟨rfl, rfl⟩ := Prod.mk.inj h
    exact find?_filter_self _ _ _
  · exact find?_filter_other h _

@[simp] theorem State.noticeKept_record (s : State) (k : NoticeKind) (a : Alert) (src : Source) (code : Byte) :
    (s.noticeKept k a).record src code = s.record src code := rfl

@[simp] theorem State.noticeRemoved_record (s : State) (k : NoticeKind) (a : Alert) (b : Option Acker)
    (src : Source) (code : Byte) : (s.noticeRemoved k a b).record src code = s.record src code := rfl

/-! ### A clear -/

/-- A clear makes of the record it names what `afterClear` says, and leaves the others. -/
theorem State.clear_record (s : State) (src : Source) (code : Byte) (src' : Source) (code' : Byte) :
    (s.clear src code).record src' code' =
      if (src', code') = (src, code) then afterClear s.now (s.record src code) else s.record src' code' := by
  split_ifs with h
  · obtain ⟨rfl, rfl⟩ := Prod.mk.inj h
    unfold State.clear
    cases hr : s.record src' code' with
    | none => simpa [afterClear] using hr
    | some a =>
      have ha := State.record_isFor hr
      cases hs : a.state with
      | activeUnack =>
        simp only [State.noticeKept_record, afterClear, hs]
        rw [State.changeRecord_record _ _ _ _ (fun _ _ => by simpa [Alert.isFor] using ha)]
        simp [hr]
      | activeAck _ _ =>
        simp only [State.noticeRemoved_record, afterClear, hs]
        rw [State.removeRecord_record]
        simp
      | clearedUnack _ => simpa [afterClear, hs] using hr
  · exact State.clear_record_other h s

/-! ### Tiles -/

theorem TileRec.report_kept (stamp : Stamp) (stale : Bool) (r : TileRec) :
    (r.report stamp stale).partialCount = r.partialCount ∧ (r.report stamp stale).fullDue = r.fullDue := by
  unfold TileRec.report
  split
  · exact ⟨rfl, rfl⟩
  · split <;> exact ⟨rfl, rfl⟩
  · exact ⟨rfl, rfl⟩

/-- A set of reports changes the states of tile records alone. -/
theorem reportSet_kept (v w : View) (stamp : Stamp) (panel : Vector (Vector (Option CellValue) 8) 40)
    (ns : List TileId) (tiles : Vector TileRec 40) (n : TileId) :
    (reportSet v w stamp panel ns tiles)[n].partialCount = tiles[n].partialCount ∧
      (reportSet v w stamp panel ns tiles)[n].fullDue = tiles[n].fullDue := by
  unfold reportSet
  induction ns generalizing tiles with
  | nil => exact ⟨rfl, rfl⟩
  | cons m ns ih =>
    simp only [List.foldl_cons]
    have h := ih (if v.tile m = w.tile m then tiles
      else tiles.set m (tiles[m].report stamp (tileStale w panel m)))
    rw [h.1, h.2]
    split
    · exact ⟨rfl, rfl⟩
    · by_cases hm : (m : Nat) = n
      · have : m = n := Fin.ext hm
        subst this
        simp only [Fin.getElem_fin, Vector.getElem_set_self]
        exact TileRec.report_kept _ _ _
      · simp [Vector.getElem_set_ne, hm]

/-- A set of reports leaves alone the tiles it does not name. -/
theorem reportSet_other (v w : View) (stamp : Stamp) (panel : Vector (Vector (Option CellValue) 8) 40)
    (ns : List TileId) (tiles : Vector TileRec 40) (n : TileId) (h : n ∉ ns) :
    (reportSet v w stamp panel ns tiles)[n] = tiles[n] := by
  unfold reportSet
  induction ns generalizing tiles with
  | nil => rfl
  | cons m ns ih =>
    simp only [List.mem_cons, not_or] at h
    simp only [List.foldl_cons]
    rw [ih _ h.2]
    split
    · rfl
    · have hm : (m : Nat) ≠ n := fun e => h.1 (Fin.ext e.symm)
      simp [Vector.getElem_set_ne, hm]

theorem State.startJob_tile (s : State) (e : EngineId) (m n : TileId) :
    (s.startJob e m).tiles[n] = s.tiles[n] ∨
      (s.startJob e m).tiles[n] = { s.tiles[n] with state := .driving } := by
  by_cases hm : (m : Nat) = n
  · have : m = n := Fin.ext hm
    subst this
    right
    simp [State.startJob]
  · left
    simp [State.startJob, Vector.getElem_set_ne, hm]

theorem State.tileKept_refl (s : State) (n : TileId) : s.tileKept s n := Or.inl rfl

theorem State.tileKept.trans {s t u : State} {n : TileId} (h₁ : s.tileKept t n) (h₂ : t.tileKept u n) :
    s.tileKept u n := by
  unfold State.tileKept at *
  rcases h₁ with h₁ | h₁ <;> rcases h₂ with h₂ | h₂ <;> simp [h₂, h₁]

theorem State.tileKept.counts {s t : State} {n : TileId} (h : s.tileKept t n) :
    t.tiles[n].partialCount = s.tiles[n].partialCount ∧ t.tiles[n].fullDue = s.tiles[n].fullDue := by
  rcases h with h | h <;> rw [h] <;> exact ⟨rfl, rfl⟩

theorem State.tileKept_handOne (s : State) (n : TileId) : s.tileKept s.handOne n := by
  unfold State.handOne
  split
  · split
    · exact s.startJob_tile _ _ n
    · exact s.tileKept_refl n
  · exact s.tileKept_refl n

theorem State.tileKept_arbiter (s : State) (n : TileId) : s.tileKept s.arbiter n :=
  (((s.tileKept_handOne n).trans (State.tileKept_handOne _ n)).trans (State.tileKept_handOne _ n)).trans
    (State.tileKept_handOne _ n)

theorem State.tileKept_of_tiles {s t : State} (h : t.tiles = s.tiles) (n : TileId) : s.tileKept t n := by
  left
  rw [h]

/-! ### drawnTo -/

theorem State.jobsStand_of_engines {s t : State} (h : t.engines = s.engines) : s.jobsStand t := by
  intro d j hj
  rw [h]
  exact hj

theorem State.jobsStand.trans {s t u : State} (h₁ : s.jobsStand t) (h₂ : t.jobsStand u) : s.jobsStand u :=
  fun d j hj => h₂ d j (h₁ d j hj)

theorem State.railFollows_of_rail {s t : State} (h : t.rail = s.rail) : s.railFollows t := by
  unfold State.railFollows
  split
  · exact Or.inl h
  · next r hr => exact ⟨r, by rw [h, ← hr]⟩
  · exact h

theorem State.railFollows.trans {s t u : State} (hp : t.powerGood = s.powerGood) (h₁ : s.railFollows t)
    (h₂ : t.railFollows u) : s.railFollows u := by
  unfold State.railFollows at h₁
  split at h₁
  · next hs =>
    unfold State.railFollows
    simp only [hs]
    rcases h₁ with h | h
    · unfold State.railFollows at h₂
      rw [h, hp] at h₂
      simpa only [hs] using h₂
    · right
      split_ifs at h ⊢ with hg
      · obtain ⟨r, hr⟩ := h
        unfold State.railFollows at h₂
        rw [hr] at h₂
        exact h₂
      · unfold State.railFollows at h₂
        rw [h] at h₂
        exact h₂
  · next r hs =>
    unfold State.railFollows
    simp only [hs]
    obtain ⟨x, hx⟩ := h₁
    unfold State.railFollows at h₂
    rw [hx] at h₂
    obtain ⟨y, hy⟩ := h₂
    exact ⟨y, hy⟩
  · next h1 h2 =>
    unfold State.railFollows at h₂ ⊢
    rw [h₁] at h₂
    split
    · next hs => exact absurd hs h1
    · next r hs => exact absurd hs (h2 r)
    · split at h₂
      · next hs => exact absurd hs h1
      · next r hs => exact absurd hs (h2 r)
      · exact h₂

theorem State.railFollows.not_rises {s t : State} (h : s.railFollows t) (hp : t.powerGood = s.powerGood)
    (hs : ¬s.risesAtOnce) : ¬t.risesAtOnce := by
  rintro ⟨ho, hg⟩
  unfold State.railFollows at h
  split at h
  · next hso =>
    have : ¬s.powerGood = true := fun hg => hs ⟨hso, hg⟩
    exact this (hp ▸ hg)
  · obtain ⟨r, hr⟩ := h
    rw [hr] at ho
    simp at ho
  · next h1 _ => exact h1 (h ▸ ho)

theorem State.risesAtOnce_rail {s t : State} (h : t.rail = s.rail) (hp : t.powerGood = s.powerGood) :
    t.risesAtOnce ↔ s.risesAtOnce := by
  simp [State.risesAtOnce, h, hp]

/-- What `drawnTo` says where no record changes and no notice is handed. -/
def State.drawnPlain (s t : State) : Prop :=
  t = { s with tiles := t.tiles, engines := t.engines, rail := t.rail, ports := t.ports } ∧
  (∀ n : TileId, t.tiles[n].partialCount = s.tiles[n].partialCount ∧
    t.tiles[n].fullDue = s.tiles[n].fullDue) ∧
  s.jobsStand t ∧ s.railFollows t ∧ s.handed t [] ∧ (s.risesAtOnce → t.rail = s.rail)

theorem State.drawnPlain_refl (s : State) : s.drawnPlain s :=
  ⟨rfl, fun _ => ⟨rfl, rfl⟩, State.jobsStand_of_engines rfl, State.railFollows_of_rail rfl, s.handed_refl,
    fun _ => rfl⟩

theorem State.drawnPlain.powerGood {s t : State} (h : s.drawnPlain t) : t.powerGood = s.powerGood := by rw [h.1]

theorem State.drawnPlain.handed {s t : State} (h : s.drawnPlain t) : s.handed t [] := h.2.2.2.2.1

theorem State.drawnPlain.rises {s t : State} (h : s.drawnPlain t) (hs : s.risesAtOnce) : t.risesAtOnce :=
  (State.risesAtOnce_rail (h.2.2.2.2.2 hs) h.powerGood).mpr hs

theorem State.drawnPlain.not_risesTo {s t : State} (h : s.drawnPlain t) : ¬s.risesTo t :=
  fun hr => hr.2 (h.2.2.2.2.2 hr.1)

theorem State.drawnPlain.trans {s t u : State} (h₁ : s.drawnPlain t) (h₂ : t.drawnPlain u) :
    s.drawnPlain u := by
  obtain ⟨f₁, t₁, j₁, r₁, n₁, p₁⟩ := h₁
  obtain ⟨f₂, t₂, j₂, r₂, n₂, p₂⟩ := h₂
  have hg : t.powerGood = s.powerGood := by rw [f₁]
  exact ⟨by rw [f₂, f₁], fun n => ⟨(t₂ n).1.trans (t₁ n).1, (t₂ n).2.trans (t₁ n).2⟩, j₁.trans j₂,
    r₁.trans hg r₂, n₁.trans n₂ (by rw [f₂]), fun hs =>
      (p₂ ((State.risesAtOnce_rail (p₁ hs) hg).mpr hs)).trans (p₁ hs)⟩

theorem State.drawnPlain.drawn {s t : State} (h : s.drawnPlain t) : s.drawnTo t := by
  have hn := h.not_risesTo
  obtain ⟨f, c, j, r, n, _⟩ := h
  have ha : t.alerts = s.alerts := by rw [f]
  refine ⟨by rw [f], c, j, r, State.keepsRecords_of_alerts ha, ?_⟩
  rw [if_neg hn]
  exact ⟨ha, by rw [f], by rw [f], n⟩

theorem State.drawnTo_refl (s : State) : s.drawnTo s := s.drawnPlain_refl.drawn

/-- After a plain change the rail reaches ON at once exactly as it would have before it. -/
theorem State.drawnPlain.risesTo_iff {s t u : State} (h : s.drawnPlain t) : s.risesTo u ↔ t.risesTo u := by
  constructor
  · intro hr
    exact ⟨h.rises hr.1, (h.2.2.2.2.2 hr.1).symm ▸ hr.2⟩
  · intro hr
    by_cases hs : s.risesAtOnce
    · exact ⟨hs, h.2.2.2.2.2 hs ▸ hr.2⟩
    · exact absurd hr.1 (h.2.2.2.1.not_rises h.powerGood hs)

/-- A plain change before what `drawnTo` allows. -/
theorem State.drawnPlain.then {s t u : State} (h₁ : s.drawnPlain t) (h₂ : t.drawnTo u) : s.drawnTo u := by
  have hi := h₁.risesTo_iff (u := u)
  obtain ⟨f₁, t₁, j₁, r₁, n₁, _⟩ := h₁
  obtain ⟨f₂, t₂, j₂, r₂, k₂, a₂⟩ := h₂
  have hp : t.powerGood = s.powerGood := by rw [f₁]
  have ha : t.alerts = s.alerts := by rw [f₁]
  have hn : t.now = s.now := by rw [f₁]; rfl
  have hrec : ∀ src code, t.record src code = s.record src code := fun _ _ => by simp [State.record, ha]
  refine ⟨by rw [f₂, f₁], fun n => ⟨(t₂ n).1.trans (t₁ n).1, (t₂ n).2.trans (t₁ n).2⟩, j₁.trans j₂,
    r₁.trans hp r₂, (State.keepsRecords_of_alerts ha).trans k₂, ?_⟩
  by_cases c : s.risesTo u
  · rw [if_pos (hi.mp c), hrec, hn] at a₂
    rw [if_pos c]
    exact ⟨a₂.1, n₁.trans a₂.2 (by rw [f₂])⟩
  · rw [if_neg fun c₂ => c (hi.mpr c₂)] at a₂
    rw [if_neg c]
    exact ⟨a₂.1.trans ha, a₂.2.1.trans (by rw [f₁]), a₂.2.2.1.trans (by rw [f₁]),
      n₁.trans a₂.2.2.2 (by rw [f₂])⟩

theorem State.drawnTo.not_rises {s t : State} (h : s.drawnTo t) (hs : ¬s.risesAtOnce) : ¬t.risesAtOnce :=
  h.2.2.2.1.not_rises (by rw [h.1]) hs

/-- What `drawnTo` says where the rail does not reach ON. -/
theorem State.drawnTo.plain {s t : State} (h : s.drawnTo t) (hs : ¬s.risesTo t) :
    t.alerts = s.alerts ∧ t.chimes = s.chimes ∧ t.pattern = s.pattern ∧ s.handed t [] := by
  have := h.2.2.2.2.2
  rwa [if_neg hs] at this

theorem State.drawnPlain_compositorEvent (s : State) (v : View) (ns : List TileId) :
    s.drawnPlain (s.compositorEvent v ns) := by
  refine ⟨rfl, fun n => reportSet_kept v s.view s.now s.panel ns s.tiles n, State.jobsStand_of_engines rfl,
    State.railFollows_of_rail rfl, ?_, fun _ => rfl⟩
  have h := State.handed_endWaits_ok { s with tiles := reportSet v s.view s.now s.panel ns s.tiles }
  exact fun q => h _ q

theorem State.jobsStand_startJob {s : State} {e : EngineId} (he : s.engines[e] = none) (n : TileId) :
    s.jobsStand (s.startJob e n) := by
  intro d j hj
  have hd : (e : Nat) ≠ d := by
    intro h
    have : e = d := Fin.ext h
    subst this
    simp [he] at hj
  simpa [State.startJob, Vector.getElem_set_ne, hd] using hj

theorem State.freeEngine_some {s : State} {e : EngineId} (h : s.freeEngine = some e) : s.engines[e] = none := by
  have := List.find?_some h
  simpa using this

theorem State.jobsStand_handOne (s : State) : s.jobsStand s.handOne := by
  unfold State.handOne
  split
  · split
    · next e n he _ => exact State.jobsStand_startJob (State.freeEngine_some he) n
    · exact State.jobsStand_of_engines rfl
  · exact State.jobsStand_of_engines rfl

theorem State.jobsStand_arbiter (s : State) : s.jobsStand s.arbiter :=
  ((s.jobsStand_handOne.trans (State.jobsStand_handOne _)).trans (State.jobsStand_handOne _)).trans
    (State.jobsStand_handOne _)

theorem State.drawnPlain_arbiter (s : State) : s.drawnPlain s.arbiter :=
  ⟨by conv_lhs => rw [arbiter_frame]
      simp, fun n => (s.tileKept_arbiter n).counts, s.jobsStand_arbiter,
    State.railFollows_of_rail (by simp), State.handed_of_ports (by simp), fun _ => by simp⟩

theorem State.drawnPlain_of_rail {s t : State} (h : t = { s with rail := t.rail }) (hr : s.railFollows t)
    (hn : s.risesAtOnce → t.rail = s.rail) : s.drawnPlain t := by
  refine ⟨?_, ?_, State.jobsStand_of_engines ?_, hr, State.handed_of_ports ?_, hn⟩ <;> rw [h]
  exact fun _ => ⟨rfl, rfl⟩

theorem State.railFollows_checkHold (s : State) : s.railFollows s.checkHold := by
  unfold State.railFollows State.checkHold
  cases hr : s.rail.state with
  | on r =>
    simp only
    split
    · exact ⟨none, rfl⟩
    · split
      · next n => exact ⟨some n, by rw [← hr]⟩
      · exact ⟨_, rfl⟩
  | off => exact Or.inl rfl
  | _ => rfl

theorem State.drawnPlain_checkHold (s : State) : s.drawnPlain s.checkHold :=
  State.drawnPlain_of_rail (checkHold_frame s) s.railFollows_checkHold fun h => by
    unfold State.checkHold
    rw [h.1]

/-! ### The rail's rise -/

/-- A clear hands the notices of `clearNotices`, and changes nothing else of a Port Unit. -/
theorem State.handed_clear (s : State) (src : Source) (code : Byte) :
    s.handed (s.clear src code) (clearNotices s.now (s.record src code)) := by
  unfold State.clear
  cases hr : s.record src code with
  | none => exact s.handed_refl
  | some a =>
    cases ha : a.state with
    | activeUnack =>
      simp only [clearNotices, ha]
      exact State.handed_deliver (s.changeRecord src code fun _ => { a with state := .clearedUnack s.now }) _
    | activeAck b c =>
      simp only [clearNotices, ha]
      exact State.handed_deliver (s.removeRecord src code) _
    | clearedUnack _ =>
      simp only [clearNotices, ha]
      exact s.handed_refl

@[simp] theorem State.view_setAttempts (s : State) (n : Nat) : (s.setAttempts n).view = s.view := rfl

@[simp] theorem State.clear_setAttempts (s : State) (n : Nat) (src : Source) (code : Byte) :
    (s.setAttempts n).clear src code = (s.clear src code).setAttempts n := by
  unfold State.clear
  simp only [State.record, State.setAttempts]
  split
  · rfl
  · split <;> rfl

theorem State.checkHold_rail_on {s : State} (h : s.railOn = true) :
    ∃ r, s.checkHold.rail = { s.rail with state := .on r } := by
  unfold State.railOn at h
  split at h
  · next x hx =>
    have := s.railFollows_checkHold
    unfold State.railFollows at this
    rwa [hx] at this
  · simp at h

/-- The rail reaching ON (R78): its record, engines, tile counts, alert records and notices. -/
theorem State.reachOn_effects (s : State) :
    (∃ h, s.reachOn.rail = ⟨.on h, 0, s.rail.holdSetting⟩) ∧ s.jobsStand s.reachOn ∧
    (∀ n : TileId, s.reachOn.tiles[n].partialCount = s.tiles[n].partialCount ∧
      s.reachOn.tiles[n].fullDue = s.tiles[n].fullDue) ∧
    (∀ src code, s.reachOn.record src code = (s.clear .system driveFaultCode).record src code) ∧
    s.keepsRecords s.reachOn ∧
    s.handed s.reachOn (clearNotices s.now (s.record .system driveFaultCode)) := by
  have hl := listOnly_clear .system driveFaultCode
  have hrec : ∀ src code, s.reachOn.record src code = (s.clear .system driveFaultCode).record src code := by
    intro src code
    have : s.reachOn.alerts = (s.clear .system driveFaultCode).alerts := by
      simp [State.reachOn, State.listChange]
    simp [State.record, this]
  refine ⟨?_, ?_, ?_, hrec, ?_, ?_⟩
  · unfold State.reachOn
    obtain ⟨r, hr⟩ := State.checkHold_rail_on
      (s := (((s.setAttempts 0).listChange (State.clear .system driveFaultCode)).setRail (.on none)).arbiter)
      (by simp [State.railOn, State.setRail])
    refine ⟨r, ?_⟩
    rw [hr]
    simp [State.setRail, State.setAttempts, State.listChange_rail _ hl]
  · unfold State.reachOn
    refine State.jobsStand.trans (t := ((s.setAttempts 0).listChange
      (State.clear .system driveFaultCode)).setRail (.on none)) (State.jobsStand_of_engines ?_)
      ((State.jobsStand_arbiter _).trans (State.jobsStand_of_engines (State.checkHold_engines _)))
    simp [hl]
  · intro n
    unfold State.reachOn
    have h1 := (State.tileKept_arbiter
      (((s.setAttempts 0).listChange (State.clear .system driveFaultCode)).setRail (.on none)) n).counts
    have h2 := reportSet_kept (s.setAttempts 0).view ((s.setAttempts 0).clear .system driveFaultCode).view
      ((s.setAttempts 0).clear .system driveFaultCode).now
      ((s.setAttempts 0).clear .system driveFaultCode).panel bandTiles
      ((s.setAttempts 0).clear .system driveFaultCode).tiles n
    have h3 : ((s.setAttempts 0).clear .system driveFaultCode).tiles = s.tiles := by
      rw [hl.tiles]
      rfl
    have h4 : (((s.setAttempts 0).listChange (State.clear .system driveFaultCode)).setRail (.on none)).tiles =
        reportSet (s.setAttempts 0).view ((s.setAttempts 0).clear .system driveFaultCode).view
          ((s.setAttempts 0).clear .system driveFaultCode).now
          ((s.setAttempts 0).clear .system driveFaultCode).panel bandTiles
          ((s.setAttempts 0).clear .system driveFaultCode).tiles := rfl
    rw [h4, h2.1, h2.2, h3] at h1
    rwa [State.checkHold_tiles]
  · intro src code h
    rw [hrec, State.clear_record_other h]
  · have hn := (s.setAttempts 0).handed_clear .system driveFaultCode
    have h2 := ((s.setAttempts 0).clear .system driveFaultCode).drawnPlain_compositorEvent
      (s.setAttempts 0).view bandTiles
    have h3 := hn.trans h2.handed (by simp)
    rw [List.append_nil] at h3
    intro q
    have h4 : s.reachOn.ports = (((s.setAttempts 0).clear .system driveFaultCode).compositorEvent
        (s.setAttempts 0).view bandTiles).ports := by
      simp [State.reachOn, State.setRail, State.listChange]
    have h5 : s.reachOn.windows = (((s.setAttempts 0).clear .system driveFaultCode).compositorEvent
        (s.setAttempts 0).view bandTiles).windows := by
      simp [hl.windows, State.setAttempts]
    rw [h4, h5]
    exact h3 q

theorem State.drawnTo_reachOn {s : State} (hs : s.risesAtOnce) : s.drawnTo s.reachOn := by
  obtain ⟨hr, hj, ht, hrec, hk, hn⟩ := s.reachOn_effects
  have hto : s.risesTo s.reachOn := ⟨hs, by
    obtain ⟨r, hr⟩ := hr
    rw [hr]
    intro h
    have ho := hs.1
    rw [← h] at ho
    simp at ho⟩
  refine ⟨?_, ht, hj, ?_, hk, ?_⟩
  · conv_lhs => rw [s.reachOn_frame]
    simp
  · unfold State.railFollows
    rw [hs.1]
    right
    rwa [if_pos hs.2]
  · rw [if_pos hto, hrec, State.clear_record, if_pos rfl]
    exact ⟨rfl, hn⟩

theorem State.drawnTo_driveReact (s : State) : s.drawnTo s.driveReact := by
  unfold State.driveReact
  split
  · next hoff =>
    split
    · unfold State.enterRising
      split
      · next hp => exact State.drawnTo_reachOn ⟨hoff, hp⟩
      · next hp =>
        refine (State.drawnPlain_of_rail rfl ?_ fun h => absurd h.2 hp).drawn
        unfold State.railFollows
        rw [hoff]
        right
        rw [if_neg hp]
        rfl
    · exact s.drawnTo_refl
  · exact (s.drawnPlain_arbiter.trans (State.drawnPlain_checkHold _)).drawn
  · exact s.drawnTo_refl

theorem State.drawnTo_composed (s : State) (v : View) (ns : List TileId) : s.drawnTo (s.composed v ns) :=
  (s.drawnPlain_compositorEvent v ns).then (State.drawnTo_driveReact _)

/-! ### The sounder's choice and the response after it -/

/-- The sounder's choice after an event that `drawnTo` describes: `b` is the state the event found. -/
theorem State.drawnTo.heard {s t b : State} (h : s.drawnTo t) (ha : b.alerts = s.alerts)
    (hp : b.panelTest = s.panelTest) (hc : b.chimes = s.chimes) : s.drawnTo (b.heardSince t) := by
  by_cases hs : s.risesTo t
  · obtain ⟨f, c, j, r, k, a⟩ := h
    rw [if_pos hs] at a
    have hk : (b.heardSince t).alerts = t.alerts := by simp
    have hs' : s.risesTo (b.heardSince t) := by simpa [State.risesTo] using hs
    refine ⟨?_, by simpa using c, fun d x hx => by simpa using j d x hx, ?_, ?_, ?_⟩
    · apply State.ext_fields <;> first | rfl | (simp only [State.heardSince_time, State.heardSince_windows,
        State.heardSince_panel, State.heardSince_refreshPeriod, State.heardSince_refreshCount,
        State.heardSince_powerGood, State.heardSince_shelvingDue, State.heardSince_bandHeight,
        State.heardSince_tones, State.heardSince_keys, State.heardSince_supervisor, State.heardSince_remoteTest,
        State.heardSince_blank, State.heardSince_choices, State.heardSince_pending]; rw [f])
    · simpa only [State.railFollows, State.heardSince_rail] using r
    · exact k.trans (State.keepsRecords_of_alerts hk)
    · rw [if_pos hs']
      refine ⟨?_, fun q => ?_⟩
      · simpa only [State.record, hk] using a.1
      · simpa only [State.heardSince_ports, State.heardSince_windows] using a.2 q
  · have a := h.plain hs
    have hpt : t.panelTest = s.panelTest := by
      rw [h.1]
      rfl
    have : b.heardSince t = t := by
      unfold State.heardSince
      rw [if_pos ⟨a.1.trans ha.symm, hpt.trans hp.symm, a.2.1.trans hc.symm⟩]
    rwa [this]

/-- A change, and the request's response beside it. -/
theorem State.drawnTo.answered {s t : State} (h : s.drawnTo t) {p : PortId} (hp : s.ports[p].wait = none)
    (tag : Byte) (rc : RequestCode) (st : Status) (r : List Byte) :
    (s.answered p tag rc st r).drawnTo (t.reply p tag rc (some (st, r))) := by
  obtain ⟨f, c, j, w, k, a⟩ := h
  refine ⟨?_, c, j, w, k, ?_⟩
  · apply State.ext_fields <;> first | rfl | (simp [State.answered, State.reply]; rw [f])
  · change if s.risesTo t then _ else _
    split_ifs at a ⊢ with hs
    · exact ⟨a.1, a.2.answered hp tag rc st r⟩
    · exact ⟨a.1, a.2.1, a.2.2.1, a.2.2.2.answered hp tag rc st r⟩

theorem State.drawnTo.view {s t : State} (h : s.drawnTo t) (hs : ¬s.risesTo t) : t.view = s.view := by
  have ha := (h.plain hs).1
  have hf := h.1
  have e : t.time = s.time ∧ t.windows = s.windows ∧ t.keys = s.keys ∧ t.remoteTest = s.remoteTest ∧
      t.blank = s.blank ∧ t.bandHeight = s.bandHeight := by
    rw [hf]
    exact ⟨rfl, rfl, rfl, rfl, rfl, rfl⟩
  obtain ⟨e1, e2, e3, e4, e5, e6⟩ := e
  simp [State.view, State.panelTest, ha, e1, e2, e3, e4, e5, e6]

end Sys2Proof.Machine
end

