-- ==== Sys2Proof/Laws/Drive.lean ====
section
/-!
SUPPORT. What a set of reports makes of the tiles it names, the arbiter's choice and its handings, and the
drive's answer to an event, and the waits that reports end: the terms `reportedTiles`, `waitsFollow`, `arbitered`,
`driveFollows`, `redrawn`, `relisted`, `releases` and `closes` of Sys2Proof/Safety.lean.
-/

namespace Sys2Proof.Machine

/-! ### Reports -/

/-- A set of reports acts once on each tile it names, if its composed values changed (R12, R49). -/
theorem reportSet_mem (v w : View) (stamp : Stamp) (panel : Vector (Vector (Option CellValue) 8) 40)
    (ns : List TileId) (tiles : Vector TileRec 40) (n : TileId) (hn : n ∈ ns) (hd : ns.Nodup) :
    (reportSet v w stamp panel ns tiles)[n] = if v.tile n = w.tile n then tiles[n]
      else tiles[n].report stamp (tileStale w panel n) := by
  induction ns generalizing tiles with
  | nil => simp at hn
  | cons m ns ih =>
    have hd' := List.nodup_cons.mp hd
    have step : reportSet v w stamp panel (m :: ns) tiles = reportSet v w stamp panel ns
        (if v.tile m = w.tile m then tiles
          else tiles.set m (tiles[m].report stamp (tileStale w panel m))) := rfl
    rw [step]
    rcases List.mem_cons.mp hn with rfl | hm
    · rw [reportSet_other _ _ _ _ _ _ _ hd'.1]
      split <;> simp
    · have hne : (m : Nat) ≠ n := fun e => hd'.1 (Fin.ext e ▸ hm)
      rw [ih _ hm hd'.2]
      have h2 : (if v.tile m = w.tile m then tiles
          else tiles.set m (tiles[m].report stamp (tileStale w panel m)))[n] = tiles[n] := by
        split
        · rfl
        · simp [Vector.getElem_set_ne, hne]
      rw [h2]

theorem State.compositorEvent_tile_mem (s : State) (v : View) {ns : List TileId} (hd : ns.Nodup) {n : TileId}
    (hn : n ∈ ns) : (s.compositorEvent v ns).tiles[n] = if v.tile n = s.view.tile n then s.tiles[n]
      else s.tiles[n].report s.now (tileStale s.view s.panel n) :=
  reportSet_mem v s.view s.now s.panel ns s.tiles n hn hd

theorem State.compositorEvent_tile_other (s : State) (v : View) {ns : List TileId} {n : TileId}
    (hn : n ∉ ns) : (s.compositorEvent v ns).tiles[n] = s.tiles[n] :=
  reportSet_other v s.view s.now s.panel ns s.tiles n hn

/-- One set of reports at a composition event: `u` is the state the event left, with the tiles, panel and
time of `s`. -/
theorem State.compositorEvent_tiles {s u : State} {ns : List TileId} {f : TileId → Bool} (hd : ns.Nodup)
    (hf : ∀ n, f n = true ↔ n ∈ ns) (ht : u.tiles = s.tiles) (hp : u.panel = s.panel) (hn : u.now = s.now) :
    (u.compositorEvent s.view ns).tiles = s.reportedTiles u f := by
  refine Vector.ext fun i hi => ?_
  have h : (u.compositorEvent s.view ns).tiles[(⟨i, hi⟩ : TileId)] = (s.reportedTiles u f)[i] := by
    unfold State.reportedTiles
    rw [Vector.getElem_ofFn]
    by_cases hm : f ⟨i, hi⟩ = true
    · rw [u.compositorEvent_tile_mem s.view hd ((hf _).mp hm), ht, hp, hn]
      by_cases hv : s.view.tile ⟨i, hi⟩ = u.view.tile ⟨i, hi⟩
      · rw [if_pos hv, if_neg fun h => h.2 hv]
      · rw [if_neg hv, if_pos ⟨hm, hv⟩]
    · rw [u.compositorEvent_tile_other s.view fun h => hm ((hf _).mpr h), if_neg fun h => hm h.1, ht]
  exact h

/-- The reports read the view, the panel, the time and the tile records alone. -/
theorem State.reportedTiles_congr {s s' t t' : State} (hv : s'.view = s.view) (ht : s'.tiles = s.tiles)
    (hp : s'.panel = s.panel) (hn : s'.now = s.now) (hw : t'.view = t.view) (f : TileId → Bool) :
    s'.reportedTiles t' f = s.reportedTiles t f := by
  unfold State.reportedTiles
  rw [hv, ht, hp, hn, hw]

theorem State.reportedTiles_same {s t : State} (hv : t.view = s.view) (f : TileId → Bool) :
    s.reportedTiles t f = s.tiles := by
  refine Vector.ext fun i hi => ?_
  simp [State.reportedTiles, hv]

theorem tileIds_nodup : tileIds.Nodup := List.nodup_finRange 40

theorem mem_tileIds (n : TileId) : n ∈ tileIds := List.mem_finRange n

theorem Rect.tiles_nodup (r : Rect) : r.tiles.Nodup := tileIds_nodup.filter _

theorem Rect.mem_tiles (r : Rect) (n : TileId) : n ∈ r.tiles ↔ r.touches n = true := by
  simp [Rect.tiles, mem_tileIds]

/-- The drive's answer to an event, where the rail does not reach ON at it, leaves every tile, but for one
that an engine begins to drive. -/
theorem State.tileKept_driveReact (s : State) (hs : ¬s.risesAtOnce) (n : TileId) :
    s.tileKept s.driveReact n := by
  unfold State.driveReact
  split
  · next hoff =>
    split
    · unfold State.enterRising
      split
      · next hp => exact absurd ⟨hoff, hp⟩ hs
      · exact State.tileKept_refl _ _
    · exact s.tileKept_refl n
  · refine (s.tileKept_arbiter n).trans (State.tileKept_of_tiles ?_ n)
    simp
  · exact s.tileKept_refl n

/-! ### The waits (R72) -/

/-- Operations that leave every wait end none. -/
theorem State.waitsFollow_of_waits {s t : State} (h : ∀ q : PortId, t.ports[q].wait = s.ports[q].wait) :
    s.waitsFollow t fun _ _ => False :=
  fun q _ _ hv _ => Or.inr ⟨(h q).trans hv, id⟩

theorem State.quiet.waits {s t : State} (h : s.quiet t) : s.waitsFollow t fun _ _ => False :=
  State.waitsFollow_of_waits fun q => (h q).1

theorem State.waitsFollow.congr {s t s' t' : State} {e e' : WindowId → Window → Prop} (h : s.waitsFollow t e)
    (hs : ∀ q : PortId, s'.ports[q].wait = s.ports[q].wait) (ht : ∀ q : PortId, t'.ports[q].wait = t.ports[q].wait)
    (hw : t'.windows = t.windows) (he : ∀ i w, e' i w ↔ e i w) : s'.waitsFollow t' e' := by
  intro q v w hv hx
  rw [ht, he]
  exact h q v w ((hs q).symm.trans hv) (hw ▸ hx)

/-- A port that does not wait does not begin to. -/
def State.waitsFall (s t : State) : Prop := ∀ q : PortId, s.ports[q].wait = none → t.ports[q].wait = none

theorem State.handed.waitsFall {s t : State} {ns : List Notice} (h : s.handed t ns) : s.waitsFall t := by
  intro q hq
  rw [h.port hq]
  exact (PortUnit.noticed_kept q ns _).1.trans hq

/-- The ends of waits at two parts of an event. -/
theorem State.waitsFollow.then {s c t : State} {e₁ e₂ : WindowId → Window → Prop} (h₁ : s.waitsFollow c e₁)
    (h₂ : c.waitsFollow t e₂) (hf : c.waitsFall t) (hw : t.windows = c.windows) :
    s.waitsFollow t fun i w => e₁ i w ∨ e₂ i w := by
  intro q v w hv hx
  rcases h₁ q v w hv (hw ▸ hx) with ⟨h, he⟩ | ⟨h, he⟩
  · exact Or.inl ⟨hf q h, Or.inl he⟩
  · rcases h₂ q v w h hx with ⟨h', he'⟩ | ⟨h', he'⟩
    · exact Or.inl ⟨h', Or.inr he'⟩
    · exact Or.inr ⟨h', fun x => x.elim he he'⟩

/-- What a settled report ends is what `Window.settles` says (R72). -/
theorem Window.settles_iff (w : Window) (before : Vector TileRec 40) (s : State) :
    (w.rect.tiles.any ((becameSettled before s.tiles).contains ·) && s.windowSettled w) = true ↔
      w.settles before s.tiles := by
  unfold Window.settles State.windowSettled becameSettled TileRec.isSettled
  simp only [Bool.and_eq_true, List.any_eq_true, List.all_eq_true, List.contains_iff_mem, List.mem_filter,
    mem_tileIds, true_and, Bool.not_eq_true', decide_eq_true_eq, decide_eq_false_iff_not, Rect.mem_tiles]

/-- The set of reports of one composition event ends the waits it settles. -/
theorem State.compositorEvent_waits (s : State) (v : View) (ns : List TileId) :
    s.waitsFollow (s.compositorEvent v ns) fun _ w => w.settles s.tiles (s.compositorEvent v ns).tiles := by
  intro q x w hx hw
  have hw' : s.windows[(x.window : Nat)] = some w := hw
  have hi := w.settles_iff s.tiles { s with tiles := reportSet v s.view s.now s.panel ns s.tiles }
  unfold State.compositorEvent State.settledReport
  rw [Fin.getElem_fin, State.endWaits_port]
  simp only [Fin.getElem_fin] at hx hw' ⊢
  simp only [hx, hw']
  split_ifs with h
  · left
    refine ⟨?_, hi.mp h⟩
    unfold PortUnit.endWait
    simp only [hx, PortUnit.answer]
  · exact Or.inr ⟨hx, fun he => h (hi.mpr he)⟩

/-! ### The arbiter -/

theorem State.freeEngine_none (s : State) : s.freeEngine = none ↔ ∀ e : EngineId, s.engines[e] ≠ none := by
  simp [State.freeEngine, List.find?_eq_none, engineIds]

/-- The arbiter's choice, once made, is only replaced by a better one. -/
theorem State.better_some (s : State) (b : TileId × Stamp) (n : TileId) :
    ∃ c, s.better (some b) n = some c := by
  unfold State.better
  split
  · exact ⟨_, rfl⟩
  · simp_all
  · split_ifs <;> exact ⟨_, rfl⟩

theorem State.foldl_better_some (s : State) (ns : List TileId) (b : TileId × Stamp) :
    ∃ c, ns.foldl s.better (some b) = some c := by
  induction ns generalizing b with
  | nil => exact ⟨b, rfl⟩
  | cons n ns ih =>
    obtain ⟨c, hc⟩ := s.better_some b n
    rw [List.foldl_cons, hc]
    exact ih c

theorem State.foldl_better_none (s : State) (ns : List TileId) :
    ns.foldl s.better none = none ↔ ∀ n ∈ ns, s.tiles[n].since = none := by
  induction ns with
  | nil => simp
  | cons n ns ih =>
    rw [List.foldl_cons, List.forall_mem_cons]
    cases h : s.tiles[n].since with
    | none =>
      have hb : s.better none n = none := by unfold State.better; rw [h]
      rw [hb, ih]
      simp
    | some t =>
      have hb : s.better none n = some (n, t) := by unfold State.better; rw [h]
      obtain ⟨c, hc⟩ := s.foldl_better_some ns (n, t)
      rw [hb, hc]
      simp

theorem TileRec.since_none (r : TileRec) : r.since = none ↔ r.waiting = false := by
  unfold TileRec.since TileRec.waiting
  cases r.state <;> simp

theorem State.anyWaiting_false (s : State) : s.anyWaiting = false ↔ ∀ n : TileId, s.tiles[n].waiting = false := by
  unfold State.anyWaiting
  rw [List.any_eq_false]
  constructor
  · intro h n
    have := h s.tiles[n] (by simp [Vector.mem_toList_iff])
    simpa using this
  · intro h r hr
    rw [Vector.mem_toList_iff, Vector.mem_iff_getElem] at hr
    obtain ⟨i, hi, rfl⟩ := hr
    simpa using h ⟨i, hi⟩

/-- The arbiter chooses no tile exactly when none waits. -/
theorem State.chooseTile_none (s : State) : s.chooseTile = none ↔ s.anyWaiting = false := by
  unfold State.chooseTile
  rw [Option.map_eq_none_iff, State.foldl_better_none, State.anyWaiting_false]
  simp [mem_tileIds, TileRec.since_none]

/-- The number of free engines. -/
def State.freeEngines (s : State) : Nat := (engineIds.filter fun e => s.engines[e].isNone).length

theorem State.handOne_engineTaken {s : State} (h : s.engineTaken) : s.handOne = s := by
  unfold State.handOne
  split
  · rcases h with h | h
    · rw [(s.freeEngine_none).mpr h]
    · rw [(s.chooseTile_none).mpr h]
      cases s.freeEngine <;> rfl
  · rfl

theorem State.startJob_freeEngines {s : State} {e : EngineId} (he : s.engines[e] = none) (n : TileId) :
    (s.startJob e n).freeEngines < s.freeEngines := by
  unfold State.freeEngines
  have hsub : (engineIds.filter fun d => (s.startJob e n).engines[d].isNone) =
      (engineIds.filter fun d => s.engines[d].isNone).filter fun d => decide (d ≠ e) := by
    rw [List.filter_filter]
    congr 1
    funext d
    by_cases hd : d = e
    · subst hd
      simp [State.startJob]
    · have : (e : Nat) ≠ d := fun h => hd (Fin.ext h.symm)
      simp [State.startJob, Vector.getElem_set_ne, this, hd]
  rw [hsub]
  apply List.length_filter_lt_length_iff_exists.mpr
  refine ⟨e, ?_, by simp⟩
  rw [List.mem_filter]
  exact ⟨List.mem_finRange e, by rw [he]; rfl⟩

theorem State.handOne_freeEngines {s : State} (hr : s.railOn = true) (h : ¬s.engineTaken) :
    s.handOne.freeEngines < s.freeEngines := by
  unfold State.handOne
  rw [if_pos hr]
  cases hf : s.freeEngine with
  | none => exact absurd (Or.inl ((s.freeEngine_none).mp hf)) h
  | some e => cases hc : s.chooseTile with
    | none => exact absurd (Or.inr ((s.chooseTile_none).mp hc)) h
    | some n => exact State.startJob_freeEngines (State.freeEngine_some hf) n

theorem State.engineTaken_of_freeEngines {s : State} (h : s.freeEngines = 0) : s.engineTaken := by
  left
  intro e he
  have : e ∈ engineIds.filter fun d => s.engines[d].isNone := by
    rw [List.mem_filter]
    exact ⟨List.mem_finRange e, by rw [he]; rfl⟩
  rw [List.eq_nil_of_length_eq_zero h] at this
  simp at this

theorem State.freeEngines_le (s : State) : s.freeEngines ≤ 4 :=
  (List.length_filter_le _ _).trans (by simp [engineIds])

@[simp] theorem State.handOne_railOn (s : State) : s.handOne.railOn = s.railOn := by
  simp [State.railOn]

/-- While the rail is ON, the arbiter leaves no waiting tile beside a free engine (R61). -/
theorem State.arbiter_engineTaken {s : State} (hr : s.railOn = true) : s.arbiter.engineTaken := by
  have key : ∀ (k : Nat) (u : State), u.railOn = true → ¬u.handOne.engineTaken → u.freeEngines ≤ k + 1 →
      u.handOne.freeEngines ≤ k := by
    intro k u hu hn hk
    by_cases ht : u.engineTaken
    · exact absurd (by rwa [State.handOne_engineTaken ht]) hn
    · have := State.handOne_freeEngines hu ht
      omega
  by_contra hn
  unfold State.arbiter at hn
  have up : ∀ u : State, ¬u.handOne.engineTaken → ¬u.engineTaken := by
    intro u h ht
    exact h (by rwa [State.handOne_engineTaken ht])
  have h3 := up _ hn
  have h2 := up _ h3
  have h1 := up _ h2
  have k1 := key 3 s hr h1 s.freeEngines_le
  have k2 := key 2 s.handOne (by simpa using hr) h2 k1
  have k3 := key 1 _ (by simpa using hr) h3 k2
  have k4 := key 0 _ (by simpa using hr) hn k3
  exact hn (State.engineTaken_of_freeEngines (by omega))

/-! ### The rail's rise -/

theorem State.engineTaken_checkHold {s : State} (h : s.engineTaken) : s.checkHold.engineTaken := by
  unfold State.engineTaken at *
  have : s.checkHold.anyWaiting = s.anyWaiting := by simp [State.anyWaiting]
  rwa [State.checkHold_engines, this]

theorem mem_bandTiles (n : TileId) : n ∈ bandTiles ↔ tileRow n < 2 := by decide +revert

theorem bandTiles_nodup : bandTiles.Nodup := Rect.tiles_nodup _

/-- The look at the hold leaves the timer that R76 and R81 give. -/
theorem State.checkHold_rail {s : State} {h : Option Nat} (hr : s.rail.state = .on h) :
    s.checkHold.rail = { s.rail with state := .on (s.checkHold.holdAfter h) } := by
  have hw : s.checkHold.anyWaiting = s.anyWaiting := by simp [State.anyWaiting]
  have hb : s.checkHold.anyBusy = s.anyBusy := by simp [State.anyBusy]
  have hs : s.checkHold.rail.holdSetting = s.rail.holdSetting := by
    unfold State.checkHold
    rw [hr]
    cases h <;> simp only [State.setRail] <;> split_ifs <;> rfl
  unfold State.holdAfter
  rw [hw, hb, hs]
  unfold State.checkHold
  rw [hr]
  by_cases c : s.anyWaiting = true ∨ s.anyBusy = true
  · simp [c, State.setRail]
  · cases h <;> simp [c, State.setRail, Rail.holdLength, ← hr]

/-! ### The choice and the handings (R62, R63) -/

/-- The arbiter's choice among the tiles seen so far is one of them, and precedes each of the others. -/
theorem State.foldl_better_least (s : State) (ns : List TileId) (hs : ns.Pairwise (· < ·)) :
    ∀ c, ns.foldl s.better none = some c → c.1 ∈ ns ∧ s.tiles[c.1].since = some c.2 ∧
      ∀ m ∈ ns, ∀ b, m ≠ c.1 → s.tiles[m].since = some b →
        s.tileClass c.1 < s.tileClass m ∨ (s.tileClass c.1 = s.tileClass m ∧
          (c.2.before b = true ∨ (b.before c.2 = false ∧ c.1 < m))) := by
  have total : ∀ a b : Stamp, a.before b = true → b.before a = false := by
    intro a b h
    simp only [Stamp.before, decide_eq_true_eq, decide_eq_false_iff_not] at h ⊢
    omega
  have trans : ∀ a b c : Stamp, a.before b = true → c.before b = false → a.before c = true := by
    intro a b c h h2
    simp only [Stamp.before, decide_eq_true_eq, decide_eq_false_iff_not] at h h2 ⊢
    omega
  have le_trans : ∀ a b c : Stamp, b.before a = false → c.before b = false → c.before a = false := by
    intro a b c h h2
    simp only [Stamp.before, decide_eq_false_iff_not] at h h2 ⊢
    omega
  induction ns using List.reverseRecOn with
  | nil => simp
  | append_singleton ns n ih =>
    intro c hc
    rw [List.pairwise_append] at hs
    rw [List.foldl_append, List.foldl_cons, List.foldl_nil] at hc
    have hlt : ∀ m ∈ ns, m < n := fun m hm => hs.2.2 m hm n (by simp)
    simp only [List.mem_append, List.mem_singleton]
    generalize hf : ns.foldl s.better none = best at hc
    unfold State.better at hc
    cases hw : s.tiles[n].since with
    | none =>
      rw [hw] at hc
      subst hf
      obtain ⟨h1, h2, h3⟩ := ih hs.1 c hc
      refine ⟨Or.inl h1, h2, ?_⟩
      rintro m (hm | rfl) b hne hb
      · exact h3 m hm b hne hb
      · rw [hw] at hb
        simp at hb
    | some a =>
      rw [hw] at hc
      cases best with
      | none =>
        obtain rfl : (n, a) = c := by simpa using hc
        refine ⟨Or.inr rfl, hw, ?_⟩
        rintro m (hm | rfl) b hne hb
        · have := (s.foldl_better_none ns).mp hf m hm
          rw [this] at hb
          simp at hb
        · exact absurd rfl hne
      | some d =>
        obtain ⟨h1, h2, h3⟩ := ih hs.1 d hf
        simp only at hc
        by_cases hr : s.ranksBefore (n, a) d = true
        · rw [if_pos hr] at hc
          obtain rfl : (n, a) = c := by simpa using hc
          refine ⟨Or.inr rfl, hw, ?_⟩
          rintro m (hm | rfl) b hne hb
          · simp only [State.ranksBefore, Bool.or_eq_true, Bool.and_eq_true, decide_eq_true_eq] at hr
            by_cases hmd : m = d.1
            · subst hmd
              rw [h2] at hb
              obtain rfl : d.2 = b := by simpa using hb
              exact hr.imp id fun h => ⟨h.1, Or.inl h.2⟩
            · rcases h3 m hm b hmd hb with h | ⟨h, h'⟩ <;> rcases hr with hr | ⟨hr, hr'⟩
              · exact Or.inl (hr.trans h)
              · exact Or.inl (hr ▸ h)
              · exact Or.inl (h ▸ hr)
              · refine Or.inr ⟨hr.trans h, Or.inl ?_⟩
                exact trans _ _ _ hr' (h'.elim (total _ _) And.left)
          · exact absurd rfl hne
        · rw [if_neg hr] at hc
          obtain rfl : d = c := by simpa using hc
          refine ⟨Or.inl h1, h2, ?_⟩
          rintro m (hm | rfl) b hne hb
          · exact h3 m hm b hne hb
          · rw [hw] at hb
            obtain rfl : a = b := by simpa using hb
            simp only [State.ranksBefore, Bool.or_eq_true, Bool.and_eq_true, decide_eq_true_eq, not_or, not_and,
              Bool.not_eq_true, not_lt] at hr
            rcases Nat.lt_or_ge (s.tileClass d.1) (s.tileClass m) with h | h
            · exact Or.inl h
            · have he := le_antisymm hr.1 h
              exact Or.inr ⟨he, Or.inr ⟨hr.2 he.symm, hlt _ h1⟩⟩

/-- The tile the arbiter chooses is the one R62 and R63 name. -/
theorem State.nextTile_of_chooseTile {s : State} {n : TileId} (h : s.chooseTile = some n) :
    ∃ a, s.nextTile n a := by
  unfold State.chooseTile at h
  obtain ⟨c, hc, rfl⟩ := Option.map_eq_some_iff.mp h
  obtain ⟨_, h2, h3⟩ := s.foldl_better_least tileIds (by decide) c hc
  exact ⟨c.2, h2, fun m b hm hb => h3 m (mem_tileIds m) b hm hb⟩

/-- The tile that R62 and R63 name is one alone. -/
theorem State.nextTile_unique {s : State} {n m : TileId} {a b : Stamp} (h₁ : s.nextTile n a)
    (h₂ : s.nextTile m b) : n = m := by
  by_contra hne
  have x := h₁.2 m b (Ne.symm hne) h₂.1
  have y := h₂.2 n a hne h₁.1
  simp only [Stamp.before, decide_eq_true_eq, decide_eq_false_iff_not, Fin.lt_def] at x y
  omega

theorem TileRec.waveform_eq {r : TileRec} {a : Stamp} (h : r.since = some a) : r.waveform =
    if r.state = .unknown a ∨ r.partialCount = 16 ∨ r.fullDue = true then .fullDrive else .partialDrive := by
  unfold TileRec.since at h
  unfold TileRec.waveform
  cases hs : r.state <;> simp_all

/-- The job that starts on a tile is the one R52 to R54 name. -/
theorem State.startJob_eq (s : State) (e : EngineId) {n : TileId} {a : Stamp} (h : s.tiles[n].since = some a) :
    s.startJob e n = { s with
      engines := s.engines.set e (some (s.jobFor n a))
      tiles := s.tiles.set n { s.tiles[n] with state := .driving } } := by
  unfold State.startJob State.jobFor
  rw [TileRec.waveform_eq h]
  split_ifs <;> rfl

theorem State.freeEngine_least {s : State} {e : EngineId} (h : s.freeEngine = some e) :
    ∀ d < e, s.engines[d] ≠ none := by
  intro d hd hn
  unfold State.freeEngine at h
  obtain ⟨_, as, bs, hl, hall⟩ := List.find?_eq_some_iff_append.mp h
  have hp : engineIds.Pairwise (· < ·) := by decide
  have hm : d ∈ engineIds := List.mem_finRange d
  rw [hl, List.mem_append, List.mem_cons] at hm
  rw [hl, List.pairwise_append, List.pairwise_cons] at hp
  rcases hm with hm | rfl | hm
  · have := hall d hm
    rw [hn] at this
    simp at this
  · exact lt_irrefl _ hd
  · exact absurd (hp.2.1.1 d hm) (not_lt.mpr hd.le)

/-- While the rail is ON, one handing is R63's, or there is nothing to hand. -/
theorem State.handOne_cases {s : State} (hr : s.railOn = true) : s.handOne = s ∨ s.handedTile s.handOne := by
  unfold State.handOne
  rw [if_pos hr]
  cases hf : s.freeEngine with
  | none => exact Or.inl rfl
  | some e => cases hc : s.chooseTile with
    | none => exact Or.inl rfl
    | some n =>
      obtain ⟨a, ha⟩ := State.nextTile_of_chooseTile hc
      exact Or.inr ⟨e, n, a, State.freeEngine_some hf, State.freeEngine_least hf, ha, s.startJob_eq e ha.1⟩

/-- While the rail is ON, the arbiter's work is a run of handings that leaves none to make. -/
theorem State.arbitered_arbiter {s : State} (hr : s.railOn = true) : s.arbitered s.arbiter := by
  have step : ∀ u : State, u.railOn = true → Relation.ReflTransGen State.handedTile u u.handOne := by
    intro u hu
    rcases State.handOne_cases hu with h | h
    · rw [h]
    · exact Relation.ReflTransGen.single h
  refine ⟨s.arbiter, ?_, State.arbiter_engineTaken hr, rfl, rfl⟩
  unfold State.arbiter
  exact (((step s hr).trans (step _ (by simpa using hr))).trans (step _ (by simpa using hr))).trans
    (step _ (by simpa using hr))

/-- The two states compose alike: the views, and what decides the classes of tiles. -/
def State.alike (s u : State) : Prop :=
  u.view = s.view ∧ u.bannerComposed = s.bannerComposed ∧ u.bandHeight = s.bandHeight

theorem State.alike_of_eq {s u : State} (ha : u.alerts = s.alerts) (ht : u.time = s.time)
    (hw : u.windows = s.windows) (hk : u.keys = s.keys) (hr : u.remoteTest = s.remoteTest)
    (hb : u.blank = s.blank) (hh : u.bandHeight = s.bandHeight) : s.alike u := by
  refine ⟨?_, ?_, hh⟩
  · simp [State.view, State.panelTest, ha, ht, hw, hk, hr, hb, hh]
  · simp [State.bannerComposed, State.bannerShowing, State.panelTest, ha, hk, hr, hb]

theorem State.alike.symm {s u : State} (h : s.alike u) : u.alike s := ⟨h.1.symm, h.2.1.symm, h.2.2.symm⟩

theorem State.alike.trans {s t u : State} (h₁ : s.alike t) (h₂ : t.alike u) : s.alike u :=
  ⟨h₂.1.trans h₁.1, h₂.2.1.trans h₁.2.1, h₂.2.2.trans h₁.2.2⟩

/-- Composition reads neither the rail nor the drive. -/
theorem State.alike_drive (s : State) (r : Rail) (e : Vector (Option Job) 4) (ts : Vector TileRec 40) :
    s.alike { s with rail := r, engines := e, tiles := ts } := ⟨rfl, rfl, rfl⟩

theorem State.alike_tiles (s : State) (e : Vector (Option Job) 4) (ts : Vector TileRec 40) :
    s.alike { s with engines := e, tiles := ts } := ⟨rfl, rfl, rfl⟩

theorem State.alike_refl (s : State) : s.alike s := ⟨rfl, rfl, rfl⟩

theorem State.alike.tileClass {s u : State} (h : s.alike u) (ht : u.tiles = s.tiles) (n : TileId) :
    u.tileClass n = s.tileClass n := by
  unfold State.tileClass
  rw [h.2.1, h.2.2, ht]

/-- A handing reads composition, engines and tiles alone. -/
theorem State.handedTile.congr {s t u : State} (h : s.handedTile t) (ha : s.alike u)
    (he : u.engines = s.engines) (ht : u.tiles = s.tiles) :
    u.handedTile { u with engines := t.engines, tiles := t.tiles } ∧ t.view = s.view ∧
      t.bannerComposed = s.bannerComposed ∧ t.bandHeight = s.bandHeight := by
  obtain ⟨e, n, a, h1, h2, ⟨h3, h4⟩, rfl⟩ := h
  refine ⟨⟨e, n, a, by rwa [he], fun d hd => by rw [he]; exact h2 d hd, ⟨by rwa [ht], ?_⟩, ?_⟩, rfl, rfl, rfl⟩
  · intro m b hm hb
    rw [ha.tileClass ht, ha.tileClass ht]
    exact h4 m b hm (by rwa [← ht])
  · simp only [State.jobFor, ha.1, he, ht]

/-- The handings read composition, engines and tiles alone. -/
theorem State.arbitered.congr {s t s' t' : State} (h : s.arbitered t) (ha : s.alike s')
    (he : s'.engines = s.engines) (ht : s'.tiles = s.tiles) (he' : t'.engines = t.engines)
    (ht' : t'.tiles = t.tiles) : s'.arbitered t' := by
  obtain ⟨v, hv, hn, h1, h2⟩ := h
  have key : Relation.ReflTransGen State.handedTile s' { s' with engines := v.engines, tiles := v.tiles } ∧
      v.view = s.view ∧ v.bannerComposed = s.bannerComposed ∧ v.bandHeight = s.bandHeight := by
    clear hn h1 h2
    induction hv with
    | refl =>
      refine ⟨?_, rfl, rfl, rfl⟩
      rw [← he, ← ht]
    | tail _ hs ih =>
      obtain ⟨ih1, ih2, ih3, ih4⟩ := ih
      have hc := hs.congr (u := { s' with engines := _, tiles := _ })
        ⟨by rw [ih2]; exact ha.1, by rw [ih3]; exact ha.2.1, by rw [ih4]; exact ha.2.2⟩ rfl rfl
      exact ⟨ih1.tail hc.1, hc.2.1.trans ih2, hc.2.2.1.trans ih3, hc.2.2.2.trans ih4⟩
  refine ⟨_, key.1, ?_, he'.trans h1, ht'.trans h2⟩
  simpa only [State.engineTaken, State.anyWaiting] using hn

/-! ### The drive's answer -/

/-- The rail reaching ON reports the banner's tiles, once each, ends the waits that this settles, hands the free
engines, and starts the hold timer where it is to run (R12, R61, R72, R78, R81). -/
theorem State.reachOn_picture (s : State) :
    ({ s.reachOn with
      engines := s.engines
      tiles := s.reportedTiles s.reachOn bandRows } : State).arbitered s.reachOn ∧
    (s.waitsFollow s.reachOn fun _ w => w.settles s.tiles (s.reportedTiles s.reachOn bandRows)) ∧
    s.reachOn.rail = ⟨.on (s.reachOn.holdAfter none), 0, s.rail.holdSetting⟩ := by
  have hl := listOnly_clear .system driveFaultCode
  obtain ⟨c, hc⟩ : ∃ c, c = (s.setAttempts 0).clear .system driveFaultCode := ⟨_, rfl⟩
  obtain ⟨d, hd⟩ : ∃ d, d = c.compositorEvent s.view bandTiles := ⟨_, rfl⟩
  obtain ⟨u, hu⟩ : ∃ u, u = d.setRail (.on none) := ⟨_, rfl⟩
  have hreach : s.reachOn = u.arbiter.checkHold := by rw [hu, hd, hc]; rfl
  have hct : c.time = s.time := by rw [hc]; exact hl.time _
  have hnow : c.now = s.now := by simp [State.now, hct]
  have hcu : c.alike u := by
    rw [hu, hd]
    exact ⟨rfl, rfl, rfl⟩
  have hur : u.alike s.reachOn := by
    rw [hreach]
    apply State.alike_of_eq <;> simp
  have hts : c.tiles = s.tiles := by rw [hc]; exact hl.tiles _
  have ht : d.tiles = s.reportedTiles c bandRows := by
    rw [hd]
    exact State.compositorEvent_tiles (s := s) (u := c) bandTiles_nodup
      (fun n => by rw [mem_bandTiles, bandRows, decide_eq_true_iff]) hts (by rw [hc]; exact hl.panel _) hnow
  have hue : u.engines = s.engines := by
    rw [hu, hd, hc]
    exact hl.engines _
  have hv : s.reachOn.view = c.view := hur.1.trans hcu.1
  have hr : s.reportedTiles s.reachOn bandRows = d.tiles := by
    rw [ht]
    exact State.reportedTiles_congr rfl rfl rfl rfl hv _
  have harb : u.arbitered u.arbiter := State.arbitered_arbiter (by rw [hu]; rfl)
  refine ⟨harb.congr (hur.trans (s.reachOn.alike_tiles _ _)) hue.symm ?_ ?_ ?_, ?_, ?_⟩
  · exact hr.trans (by rw [hu]; rfl)
  · rw [hreach]
    exact State.checkHold_engines _
  · rw [hreach]
    exact State.checkHold_tiles _
  · rw [hr, ← hts]
    have hq : s.quiet c := by
      rw [hc]
      exact (State.quiet_of_ports (t := s.setAttempts 0) rfl).trans (State.quiet_clear _ _ _)
    have h1 := c.compositorEvent_waits s.view bandTiles
    rw [← hd] at h1
    exact h1.congr (fun q => (hq q).1.symm) (fun q => by rw [hreach, hu]; simp [State.setRail])
      (by rw [hreach, hu]; simp [State.setRail]) fun _ _ => Iff.rfl
  · have hor : u.arbiter.rail.state = .on none := by
      rw [State.arbiter_rail, hu]
      rfl
    have hcr : c.rail = ⟨s.rail.state, 0, s.rail.holdSetting⟩ := by
      rw [hc]
      exact hl.rail _
    have hh : u.arbiter.rail = ⟨.on none, 0, s.rail.holdSetting⟩ := by
      rw [State.arbiter_rail, hu, hd]
      simp [State.setRail, hcr]
    rw [hreach, State.checkHold_rail hor, hh]

theorem State.driveReact_on {s : State} (h : s.railOn = true) : s.driveReact = s.arbiter.checkHold := by
  unfold State.railOn at h
  unfold State.driveReact
  cases hr : s.rail.state <;> simp_all

theorem State.driveReact_off {s : State} (h : s.rail.state = .off) :
    s.driveReact = if s.anyWaiting then s.enterRising else s := by
  unfold State.driveReact
  rw [h]

/-- The drive's answer to an event (R61, R76 to R78, R81). -/
theorem State.driveFollows_driveReact (s : State) : s.driveFollows s.driveReact := by
  cases hr : s.rail.state with
  | on h =>
    have hon : s.railOn = true := by
      unfold State.railOn
      rw [hr]
    rw [State.driveReact_on hon]
    unfold State.driveFollows
    rw [hr]
    refine ⟨(State.arbitered_arbiter hon).congr s.alike_refl rfl rfl (State.checkHold_engines _)
      (State.checkHold_tiles _), ?_⟩
    have hc := State.checkHold_rail (s := s.arbiter) (h := h) (by rw [State.arbiter_rail, hr])
    rwa [State.arbiter_rail] at hc
  | off =>
    rw [State.driveReact_off hr]
    unfold State.driveFollows
    rw [hr]
    by_cases hw : s.anyWaiting = true
    · rw [if_pos hw]
      simp only [hw, Bool.true_eq_false, if_false]
      unfold State.enterRising
      by_cases hg : s.powerGood = true
      · rw [if_pos hg, if_pos hg]
        exact ⟨s.reachOn_picture.1, s.reachOn_picture.2.2⟩
      · rw [if_neg hg, if_neg hg]
        exact ⟨rfl, rfl, rfl⟩
    · rw [if_neg hw, if_pos (by simpa using hw)]
      exact ⟨rfl, rfl, rfl⟩
  | _ =>
    unfold State.driveFollows State.driveReact
    rw [hr]
    exact ⟨rfl, rfl, rfl⟩

/-- The waits that the drive's answer ends: those that DRIVE_FAULT's clearing settles where the rail reaches ON. -/
theorem State.driveReact_waits (s : State) : s.waitsFollow s.driveReact fun _ w =>
    s.risesTo s.driveReact ∧ w.settles s.tiles (s.reportedTiles s.driveReact bandRows) := by
  by_cases hr : s.risesTo s.driveReact
  · have he : s.driveReact = s.reachOn := by
      have h := hr.2
      rw [State.driveReact_off hr.1.1] at h ⊢
      split_ifs at h ⊢
      · unfold State.enterRising
        rw [if_pos hr.1.2]
      · exact absurd rfl h
    rw [he] at hr ⊢
    exact s.reachOn_picture.2.1.congr (fun _ => rfl) (fun _ => rfl) rfl fun _ _ => ⟨And.right, And.intro hr⟩
  · refine (State.waitsFollow_of_waits fun q => ?_).congr (fun _ => rfl) (fun _ => rfl) rfl
      fun _ _ => ⟨fun h => absurd h.1 hr, False.elim⟩
    unfold State.driveReact at hr ⊢
    split
    · next ho =>
      rw [ho] at hr
      split
      · next hw =>
        unfold State.enterRising at hr ⊢
        split
        · next hg =>
          simp only [hw, if_true, hg] at hr
          have := s.reachOn_picture.2.2
          exact absurd ⟨⟨ho, hg⟩, fun e => by rw [e] at this; rw [this] at ho; simp at ho⟩ hr
        · rfl
      · rfl
    · simp
    · rfl

/-- The drive's answer reads composition, the panel, the time, engines, tiles and the rail alone. -/
theorem State.driveFollows.congr {s t s' t' : State} (h : s.driveFollows t) (ha : s.alike s')
    (hb : t.alike t') (he : s'.engines = s.engines) (ht : s'.tiles = s.tiles) (hp : s'.panel = s.panel)
    (hn : s'.now = s.now) (hr : s'.rail = s.rail) (hg : s'.powerGood = s.powerGood)
    (he' : t'.engines = t.engines) (ht' : t'.tiles = t.tiles) (hr' : t'.rail = t.rail) : s'.driveFollows t' := by
  have h1 : s'.anyWaiting = s.anyWaiting := by simp [State.anyWaiting, ht]
  have h2 : ∀ x, t'.holdAfter x = t.holdAfter x := fun x => by
    simp [State.holdAfter, State.anyWaiting, State.anyBusy, he', ht', hr']
  unfold State.driveFollows at h ⊢
  unfold State.driveStands at h ⊢
  simp only [hr, hg, hr', h1, h2, he', ht', he, ht] at h ⊢
  split at h
  · exact ⟨h.1.congr ha he ht he' ht', h.2⟩
  · split_ifs at h ⊢
    · exact h
    · exact ⟨h.1.congr ((t.alike_tiles s.engines (s.reportedTiles t bandRows)).symm.trans
        (hb.trans (t'.alike_tiles s.engines (s'.reportedTiles t' bandRows)))) rfl
        (State.reportedTiles_congr ha.1 ht hp hn hb.1 _) he' ht', h.2⟩
    · exact h
  · exact h

/-- The drive's answer leaves composition as it was, but for the records where the rail reaches ON. -/
theorem State.alike_drawn {s t : State} (h : s.drawnTo t) : ({ t with alerts := s.alerts } : State).alike s := by
  have hf := h.1
  refine State.alike_of_eq rfl ?_ ?_ ?_ ?_ ?_ ?_ <;> rw [hf]

/-- What the drive answers to an event that left `c`, from the rail and engines of `s`: `e` tells the waits that
the event's own reports have ended in `c`. -/
theorem State.drives_driveReact {s c : State} (he : c.engines = s.engines) (hr : c.rail = s.rail)
    (hg : c.powerGood = s.powerGood) (hw : s.waitsFollow c fun _ w => w.settles s.tiles c.tiles) :
    s.drives c.driveReact c.alerts c.tiles := by
  have hd := c.drawnTo_driveReact
  have hal := State.alike_drawn hd
  have hp : c.driveReact.panel = c.panel := by rw [hd.1]
  have hn : c.driveReact.now = c.now := by rw [hd.1]; rfl
  have hpg : c.driveReact.powerGood = c.powerGood := by rw [hd.1]
  have hwin : c.driveReact.windows = c.windows := by rw [hd.1]
  have hal' : c.alike (s.undriven c.driveReact c.alerts c.tiles) :=
    hal.symm.trans (State.alike_drive _ _ _ _)
  refine ⟨c.driveFollows_driveReact.congr hal' (State.alike_refl _) he.symm rfl hp hn hr.symm hpg rfl rfl rfl, ?_⟩
  refine (hw.then c.driveReact_waits ?_ hwin).congr (fun _ => rfl) (fun _ => rfl) rfl fun i w => ?_
  · intro q hq
    have h := hd.2.2.2.2.2
    split_ifs at h
    · exact h.2.waitsFall q hq
    · exact h.2.2.2.waitsFall q hq
  · unfold State.reportsEnd
    have hre : (s.undriven c.driveReact c.alerts c.tiles).reportedTiles c.driveReact bandRows =
        c.reportedTiles c.driveReact bandRows := State.reportedTiles_congr hal'.1 rfl hp hn rfl _
    have hri : s.risesTo c.driveReact ↔ c.risesTo c.driveReact := by
      unfold State.risesTo State.risesAtOnce
      rw [hr, hg]
    rw [hre, hri]

/-- A composition event: `u` is the state the event left, with the engines, tiles, panel, time, rail, power-good
level, records, and waits of `s`. -/
theorem State.redrawn_composed {s u : State} {ns : List TileId} {f : TileId → Bool} (hd : ns.Nodup)
    (hf : ∀ n, f n = true ↔ n ∈ ns) (he : u.engines = s.engines) (ht : u.tiles = s.tiles)
    (hp : u.panel = s.panel) (hn : u.now = s.now) (hr : u.rail = s.rail) (hg : u.powerGood = s.powerGood)
    (ha : u.alerts = s.alerts) (hw : s.waitsFollow u fun _ _ => False) : s.redrawn (u.composed s.view ns) f := by
  have hts := State.compositorEvent_tiles hd hf ht hp hn
  have hv : (u.compositorEvent s.view ns).view = u.view := rfl
  have hcw := hw.then (u.compositorEvent_waits s.view ns)
    (u.drawnPlain_compositorEvent s.view ns).handed.waitsFall rfl
  unfold State.composed
  have hce : (u.compositorEvent s.view ns).engines = s.engines := he
  have hcr : (u.compositorEvent s.view ns).rail = s.rail := hr
  have hcg : (u.compositorEvent s.view ns).powerGood = s.powerGood := hg
  have hca : (u.compositorEvent s.view ns).alerts = s.alerts := ha
  generalize u.compositorEvent s.view ns = c at *
  have h := State.drives_driveReact hce hcr hcg (hcw.congr (fun _ => rfl) (fun _ => rfl) rfl fun _ _ => by
    simp [ht])
  have hal := State.alike_drawn c.drawnTo_driveReact
  unfold State.redrawn
  rw [hca] at h hal
  rwa [State.reportedTiles_congr (s := s) (t := u) rfl rfl rfl rfl (hal.1.symm.trans hv), ← hts]

/-- The drive's answer goes on through what leaves the picture, composition and the waits. -/
theorem State.drives.of_eq {s t u : State} {al : List Alert} {ts : Vector TileRec 40} (h : s.drives t al ts)
    (he : u.engines = t.engines) (ht : u.tiles = t.tiles) (hb : t.alike u)
    (hm : ({ t with alerts := al } : State).alike { u with alerts := al }) (hp : u.panel = t.panel)
    (hn : u.now = t.now) (hg : u.powerGood = t.powerGood) (hr : u.rail = t.rail) (hwin : u.windows = t.windows)
    (hw : ∀ q : PortId, u.ports[q].wait = t.ports[q].wait) : s.drives u al ts := by
  have hal : (s.undriven t al ts).alike (s.undriven u al ts) :=
    (State.alike_drive { t with alerts := al } _ _ _).symm.trans
      (hm.trans (State.alike_drive { u with alerts := al } _ _ _))
  refine ⟨State.driveFollows.congr h.1 hal hb rfl rfl hp hn rfl hg he ht hr,
    h.2.congr (fun _ => rfl) hw hwin fun _ w => ?_⟩
  unfold State.reportsEnd State.risesTo
  rw [hr, State.reportedTiles_congr (s := s.undriven t al ts) (t := t) hal.1 rfl hp hn hb.1]

/-- So does `redrawn`. -/
theorem State.redrawn.of_eq {s t u : State} {f : TileId → Bool} (h : s.redrawn t f)
    (he : u.engines = t.engines) (ht : u.tiles = t.tiles) (hb : t.alike u)
    (hm : ({ t with alerts := s.alerts } : State).alike { u with alerts := s.alerts }) (hp : u.panel = t.panel)
    (hn : u.now = t.now) (hg : u.powerGood = t.powerGood) (hr : u.rail = t.rail) (hwin : u.windows = t.windows)
    (hw : ∀ q : PortId, u.ports[q].wait = t.ports[q].wait) : s.redrawn u f := by
  unfold State.redrawn at h ⊢
  rw [State.reportedTiles_congr (s := s) (t := { t with alerts := s.alerts }) rfl rfl rfl rfl hm.1]
  exact h.of_eq he ht hb hm hp hn hg hr hwin hw

/-- The records after the drive's answer: those the event left, or, where the rail reaches ON, those without the
cleared DRIVE_FAULT. -/
theorem State.driveReact_alerts (s : State) : s.driveReact.alerts =
    if s.risesTo s.driveReact then (s.clear .system driveFaultCode).alerts else s.alerts := by
  by_cases hr : s.risesTo s.driveReact
  · rw [if_pos hr]
    have h := hr.2
    rw [State.driveReact_off hr.1.1] at h ⊢
    split_ifs at h ⊢
    · unfold State.enterRising
      rw [if_pos hr.1.2]
      simp [State.reachOn, State.listChange]
    · exact absurd rfl h
  · rw [if_neg hr]
    exact (s.drawnTo_driveReact.plain hr).1

/-- A clear reads the records and the time alone. -/
theorem State.clear_alerts_congr {s t : State} (ha : t.alerts = s.alerts) (hn : t.now = s.now) (src : Source)
    (code : Byte) : (t.clear src code).alerts = (s.clear src code).alerts := by
  have hr := State.record_of_alerts ha src code
  unfold State.clear
  rw [hr]
  cases s.record src code with
  | none => exact ha
  | some a => cases hs : a.state <;> simp only [hs, hn] <;> simp [ha, State.changeRecord, State.removeRecord,
      State.noticeKept, State.noticeRemoved]

/-- A list event, as `relisted` tells it. -/
theorem State.relisted_listEvent {f : State → State} (hf : ListOnly f) {s : State} (hq : s.quiet (f s)) :
    s.relisted (s.listEvent f) := by
  refine ⟨(f s).alerts, ?_, ?_⟩
  · unfold State.listEvent
    by_cases he : (f s).alerts = s.alerts
    · rw [if_pos he, if_neg fun h => h.2 (hf.rail s)]
    · rw [if_neg he, State.driveReact_alerts]
      have hri : s.risesTo (s.listChange f).driveReact ↔ (s.listChange f).risesTo (s.listChange f).driveReact := by
        unfold State.risesTo State.risesAtOnce
        rw [s.listChange_rail hf, s.listChange_powerGood hf]
      rw [if_congr hri rfl rfl]
      have h1 : (s.listChange f).alerts = (f s).alerts := rfl
      rw [State.clear_alerts_congr (s := { s with alerts := (f s).alerts }) h1
        (by simp [State.now, State.listChange_time, hf]), h1]
  · unfold State.listEvent
    by_cases he : (f s).alerts = s.alerts
    · rw [if_pos he, if_pos he]
      exact ⟨⟨hf.engines s, hf.tiles s, hf.rail s⟩, hq.waits⟩
    · rw [if_neg he, if_neg he]
      have hts : (s.listChange f).tiles = s.reportedTiles (f s) bandRows :=
        State.compositorEvent_tiles bandTiles_nodup (fun n => by rw [mem_bandTiles, bandRows, decide_eq_true_iff])
          (hf.tiles s) (hf.panel s) (by simp [State.now, hf.time])
      have hcw := hq.waits.then ((f s).compositorEvent_waits s.view bandTiles)
        ((f s).drawnPlain_compositorEvent s.view bandTiles).handed.waitsFall rfl
      have hv : (s.listChange f).view = (f s).view := rfl
      have hca : (s.listChange f).alerts = (f s).alerts := rfl
      have h := State.drives_driveReact (s := s) (c := s.listChange f) (hf.engines s) (s.listChange_rail hf)
        (s.listChange_powerGood hf) (hcw.congr (fun _ => rfl) (fun _ => rfl) rfl fun _ w => by
          rw [hf.tiles]
          exact ⟨Or.inr, fun x => x.elim False.elim id⟩)
      have hal := State.alike_drawn (s.listChange f).drawnTo_driveReact
      rw [hca] at h hal
      rwa [State.reportedTiles_congr (s := s) (t := f s) rfl rfl rfl rfl (hal.1.symm.trans hv), ← hts]

/-- `relisted` goes on through what leaves the picture, the records, composition and the waits. -/
theorem State.relisted.of_eq {s t u : State} (h : s.relisted t) (he : u.engines = t.engines)
    (ht : u.tiles = t.tiles) (hr : u.rail = t.rail) (ha : u.alerts = t.alerts) (hti : u.time = t.time)
    (hwin : u.windows = t.windows) (hk : u.keys = t.keys) (hrt : u.remoteTest = t.remoteTest)
    (hb : u.blank = t.blank) (hh : u.bandHeight = t.bandHeight) (hp : u.panel = t.panel)
    (hg : u.powerGood = t.powerGood) (hw : ∀ q : PortId, u.ports[q].wait = t.ports[q].wait) : s.relisted u := by
  obtain ⟨l, hl, h⟩ := h
  have hal : ({ t with alerts := l } : State).alike { u with alerts := l } :=
    State.alike_of_eq rfl hti hwin hk hrt hb hh
  refine ⟨l, ?_, ?_⟩
  · unfold State.risesTo at hl ⊢
    rw [ha, hr, hl]
  · split_ifs at h ⊢
    · exact ⟨⟨he.trans h.1.1, ht.trans h.1.2.1, hr.trans h.1.2.2⟩,
        h.2.congr (fun _ => rfl) hw hwin fun _ _ => Iff.rfl⟩
    · rw [State.reportedTiles_congr (s := s) (t := { t with alerts := l }) rfl rfl rfl rfl hal.1]
      exact h.of_eq he ht (State.alike_of_eq ha hti hwin hk hrt hb hh) hal hp (by unfold State.now; rw [hti]) hg hr
        hwin hw

/-! ### A port's end: its role and its windows (R42, R158, R183) -/

theorem allTiles_nodup : allTiles.Nodup := tileIds_nodup

theorem mem_allTiles (n : TileId) : n ∈ allTiles := by decide +revert

theorem State.releases_releaseRole (s : State) (p : PortId) : s.releases (s.releaseRole p) p := by
  unfold State.releases State.releaseRole
  by_cases hs : s.supervisor = some p
  · simp only [hs, if_true, true_and]
    unfold State.setRemoteTest State.testChange State.panelTest
    by_cases hr : s.remoteTest = true ∧ s.keys.test.held = false
    · rw [if_pos hr, if_neg (by simp [hr.1, hr.2])]
      refine ⟨State.drawnTo_composed _ _ _, ?_⟩
      exact State.redrawn_composed allTiles_nodup (fun n => by simp [mem_allTiles]) rfl rfl rfl rfl rfl rfl rfl
        (State.waitsFollow_of_waits fun _ => rfl)
    · rw [if_neg hr, if_pos (by
        cases h1 : s.remoteTest <;> cases h2 : s.keys.test.held <;> simp_all)]
  · simp [hs]

/-- The entries that a port's windows leave. -/
theorem State.foldl_free (is : List WindowId) (ws : Vector (Option Window) 16) (i : WindowId) :
    (is.foldl (fun ws (i : WindowId) => ws.set i none) ws)[i] = if i ∈ is then none else ws[i] := by
  induction is generalizing ws with
  | nil => rfl
  | cons j is ih =>
    rw [List.foldl_cons, ih]
    by_cases h : i ∈ is
    · simp [h]
    · by_cases hj : i = j
      · subst hj
        simp
      · have : (j : Nat) ≠ i := fun e => hj (Fin.ext e.symm)
        simp [h, hj, this]

theorem State.mem_windowsOf (s : State) (p : PortId) (i : WindowId) :
    i ∈ s.windowsOf p ↔ ∃ w, s.windows[i] = some w ∧ w.owner = p := by
  unfold State.windowsOf
  simp only [List.mem_filter, windowIds, List.mem_finRange, true_and]
  cases h : s.windows[i] <;> simp

theorem State.mem_windowTiles (s : State) (is : List WindowId) (n : TileId) :
    n ∈ s.windowTiles is ↔ ∃ i ∈ is, ∃ w, s.windows[i] = some w ∧ w.rect.touches n = true := by
  unfold State.windowTiles
  simp only [List.mem_filter, mem_tileIds, true_and, List.any_eq_true]
  refine exists_congr fun i => and_congr_right fun _ => ?_
  cases h : s.windows[i] <;> simp

/-- An entry of the window table that satisfies a test. -/
theorem State.any_windows (s : State) (f : Window → Bool) :
    s.windows.toList.any (fun e => e.any f) = true ↔ ∃ (i : WindowId) (w : Window), s.windows[i] = some w ∧
      f w = true := by
  simp only [List.any_eq_true, Vector.mem_toList_iff, Vector.mem_iff_getElem]
  constructor
  · rintro ⟨_, ⟨i, hi, rfl⟩, h⟩
    obtain ⟨w, hw, hf⟩ := Option.any_eq_true _ _ |>.mp h
    exact ⟨⟨i, hi⟩, w, hw, hf⟩
  · rintro ⟨i, w, hw, hf⟩
    exact ⟨_, ⟨i.val, i.isLt, rfl⟩, by
      rw [show s.windows[i.val] = some w from hw]
      exact hf⟩

/-- The waits on closed windows end plainly. -/
theorem State.drawnPlain_endWaits_gone {s : State} {ends : WindowId → Bool}
    (h : ∀ i, ends i = true → s.windows[i] = none) : s.drawnPlain (s.endWaits .windowGone ends) := by
  refine ⟨rfl, fun _ => ⟨rfl, rfl⟩, State.jobsStand_of_engines rfl, State.railFollows_of_rail rfl, fun q => ?_,
    fun _ => rfl⟩
  rw [Fin.getElem_fin, Fin.getElem_fin, State.endWaits_port]
  cases hw : s.ports[(q : Nat)].wait with
  | none => exact PortUnit.endsWait_refl _
  | some v =>
    simp only
    split_ifs with he
    · refine Or.inr ⟨v, .windowGone, hw, Or.inr ⟨rfl, h _ he⟩, ?_⟩
      unfold PortUnit.endWait
      rw [hw]
      rfl
    · exact PortUnit.endsWait_refl _

theorem State.closes_closeWindows (s : State) (p : PortId) : s.closes (s.closeWindows (s.windowsOf p)) p := by
  have hmem := s.mem_windowsOf p
  generalize s.windowsOf p = is at hmem
  obtain ⟨ws, hws⟩ : ∃ ws, ws = is.foldl (fun ws (i : WindowId) => ws.set i none) s.windows := ⟨_, rfl⟩
  have hany := s.any_windows fun w => decide (w.owner = p)
  unfold State.closes State.closeWindows
  by_cases hn : is = []
  · rw [if_pos hn, if_neg fun h => ?_]
    obtain ⟨i, w, hw, ho⟩ := hany.mp h
    have := (hmem i).mpr ⟨w, hw, by simpa using ho⟩
    simp [hn] at this
  rw [if_neg hn, if_pos (by
    obtain ⟨i, hi⟩ := List.exists_mem_of_ne_nil _ hn
    obtain ⟨w, hw, ho⟩ := (hmem i).mp hi
    exact hany.mpr ⟨i, w, hw, by simpa using ho⟩), ← hws]
  obtain ⟨c, hc⟩ : ∃ c, c = ({ s with windows := ws } : State).endWaits .windowGone fun i => is.contains i := ⟨_, rfl⟩
  have hgone : ∀ i : WindowId, is.contains i = true → ws[i] = none := fun i hi => by
    rw [hws, State.foldl_free, if_pos (by simpa using hi)]
  have hplain : ({ s with windows := ws } : State).drawnPlain c := by
    rw [hc]
    exact State.drawnPlain_endWaits_gone hgone
  rw [← hc]
  have hd := State.drawnTo_composed c s.view (s.windowTiles is)
  have hwin : (c.composed s.view (s.windowTiles is)).windows = ws := by rw [hd.1, hc]; rfl
  have hall := hplain.then hd
  have hport : ∀ (q : PortId) (v : Wait), s.ports[q].wait = some v →
      c.ports[q] = if is.contains v.window then s.ports[q].endWait .windowGone else s.ports[q] := fun q v hv => by
    rw [hc, Fin.getElem_fin, State.endWaits_port]
    simp only [Fin.getElem_fin] at hv ⊢
    rw [hv]
  have hhand : ∃ ns, c.handed (c.composed s.view (s.windowTiles is)) ns := by
    have h := hd.2.2.2.2.2
    split_ifs at h
    · exact ⟨_, h.2⟩
    · exact ⟨_, h.2.2.2⟩
  refine ⟨fun i => ?_, fun q v w hv hw ho => ?_, by rw [hwin]; exact hall, ?_⟩
  · rw [hwin, hws, State.foldl_free]
    by_cases hi : i ∈ is
    · rw [if_pos hi]
      obtain ⟨w, hw, ho⟩ := (hmem i).mp hi
      simp [hw, ho, Option.filter]
    · rw [if_neg hi]
      cases hw : s.windows[i] with
      | none => rfl
      | some w =>
        have : w.owner ≠ p := fun ho => hi ((hmem i).mpr ⟨w, hw, ho⟩)
        simp [this, Option.filter]
  · have hv' := hport q v hv
    rw [if_pos (by simpa using (hmem v.window).mpr ⟨w, hw, ho⟩)] at hv'
    unfold PortUnit.endWait at hv'
    rw [hv] at hv'
    obtain ⟨ns, hh⟩ := hhand
    have hz := hh.port (p := q) (by rw [hv']; rfl)
    have hk := PortUnit.noticed_kept q ns c.ports[q]
    rw [hz, hk.1, hk.2, hv']
    exact ⟨rfl, rfl⟩
  · refine State.redrawn_composed (tileIds_nodup.filter _) (fun n => ?_) (by rw [hc]; rfl) (by rw [hc]; rfl)
      (by rw [hc]; rfl) (by rw [hc]; rfl) (by rw [hc]; rfl) (by rw [hc]; rfl) (by rw [hc]; rfl)
      fun q v w hv hw => ?_
    · rw [State.mem_windowTiles, s.any_windows]
      constructor
      · rintro ⟨i, w, hw, h⟩
        simp only [Bool.and_eq_true, decide_eq_true_eq] at h
        exact ⟨i, (hmem i).mpr ⟨w, hw, h.1⟩, w, hw, h.2⟩
      · rintro ⟨i, hi, w, hw, ht⟩
        obtain ⟨x, hx, ho⟩ := (hmem i).mp hi
        refine ⟨i, w, hw, ?_⟩
        rw [hw] at hx
        simp [Option.some.inj hx, ho, ← ht]
    · right
      refine ⟨?_, id⟩
      rw [hport q v hv, if_neg fun hi => ?_]
      · exact hv
      · have hw' : ws[v.window] = some w := by
          rw [hc] at hw
          exact hw
        rw [hgone _ hi] at hw'
        simp at hw'

end Sys2Proof.Machine
end

