-- ==== Sys2Proof/Laws/Records.lean ====
section
/-!
SUPPORT. What each list operation makes of the record under every source and code, by the terms of
Sys2Proof/Safety.lean (`afterRaise`, `afterClear`, `afterAck`), and what a list event adds to it.
-/

namespace Sys2Proof.Machine

/-! ### The operations -/

theorem Alert.reraised_eq (now : Stamp) (a : Alert) (x : RaiseArgs) :
    a.reraised x = afterRaise now a.source a.code x (some a) := by
  unfold Alert.reraised afterRaise Alert.escalatedBy
  by_cases h : a.severity.rank < x.severity.rank
  · simp [h]
  · cases hs : a.state <;> simp [h, hs, AlertState.stage]

/-- A raise makes the record it names, and leaves the others. -/
theorem State.raise_record (s : State) (src : Source) (code : Byte) (x : RaiseArgs) (src' : Source)
    (code' : Byte) : (s.raise src code x).record src' code' =
      if (src', code') = (src, code) then some (afterRaise s.now src code x (s.record src code))
      else s.record src' code' := by
  unfold State.raise
  cases hr : s.record src code with
  | none =>
    simp only [State.noticeKept_record]
    unfold State.record at hr ⊢
    simp only [List.find?_append]
    split_ifs with h
    · obtain ⟨rfl, rfl⟩ := Prod.mk.inj h
      rw [hr]
      simp [newAlert, Alert.isFor, afterRaise]
    · have h1 : (newAlert src code x s.now).isFor src' code' = false := by
        have : (newAlert src code x s.now).isFor src code = true := by simp [newAlert, Alert.isFor]
        exact isFor_ne (Ne.symm h) this
      simp [h1]
  | some a =>
    simp only [State.noticeKept_record]
    rw [State.changeRecord_record]
    · split_ifs with h
      · have ha := State.record_isFor hr
        rw [hr, Option.map_some, Alert.reraised_eq s.now, ha.1, ha.2]
      · rfl
    · intro b hb
      rw [Alert.reraised_eq s.now]
      rw [isFor_iff] at hb ⊢
      simp [afterRaise, hb]

/-- An acknowledgement makes of the record it names what `afterAck` says, and leaves the others. -/
theorem State.acknowledge_record (s : State) (b : Acker) (src : Source) (code : Byte) (src' : Source)
    (code' : Byte) : (s.acknowledge b src code).record src' code' =
      if (src', code') = (src, code) then afterAck b s.now (s.record src code) else s.record src' code' := by
  unfold State.acknowledge
  cases hr : s.record src code with
  | none =>
    split_ifs with h
    · obtain ⟨rfl, rfl⟩ := Prod.mk.inj h
      simpa [afterAck] using hr
    · rfl
  | some a =>
    have ha := State.record_isFor hr
    cases hs : a.state with
    | activeUnack =>
      simp only [State.noticeKept_record, afterAck, hs]
      rw [State.changeRecord_record _ _ _ _ (fun _ _ => by simpa [Alert.isFor] using ha)]
      simp [hr]
    | activeAck _ _ =>
      simp only [afterAck, hs]
      split_ifs with h
      · obtain ⟨rfl, rfl⟩ := Prod.mk.inj h
        exact hr
      · rfl
    | clearedUnack _ =>
      simp only [State.noticeRemoved_record, afterAck, hs]
      rw [State.removeRecord_record]

theorem State.shelve_record (s : State) (src : Source) (code : Byte) (secs : Nat) (src' : Source)
    (code' : Byte) : (s.shelve src code secs).record src' code' =
      if (src', code') = (src, code)
      then (s.record src code).map fun a => { a with shelved := some (s.shelfExpiry secs) }
      else s.record src' code' := by
  unfold State.shelve
  cases hr : s.record src code with
  | none =>
    split_ifs with h
    · obtain ⟨rfl, rfl⟩ := Prod.mk.inj h
      simpa using hr
    · rfl
  | some a =>
    have ha := State.record_isFor hr
    simp only [State.noticeKept_record]
    rw [State.changeRecord_record _ _ _ _ (fun _ _ => by simpa [Alert.isFor] using ha)]
    simp [hr]

theorem State.unshelve_record (s : State) (src : Source) (code : Byte) (src' : Source) (code' : Byte) :
    (s.unshelve src code).record src' code' =
      if (src', code') = (src, code) then (s.record src code).map fun a => { a with shelved := none }
      else s.record src' code' := by
  unfold State.unshelve
  cases hr : s.record src code with
  | none =>
    split_ifs with h
    · obtain ⟨rfl, rfl⟩ := Prod.mk.inj h
      simpa using hr
    · rfl
  | some a =>
    have ha := State.record_isFor hr
    cases hs : a.shelved with
    | none =>
      simp only [hs]
      split_ifs with h
      · obtain ⟨rfl, rfl⟩ := Prod.mk.inj h
        rw [hr, Option.map_some]
        congr 1
        cases a
        simp_all
      · rfl
    | some _ =>
      simp only [hs, State.noticeKept_record]
      rw [State.changeRecord_record _ _ _ _ (fun _ _ => by simpa [Alert.isFor] using ha)]
      simp [hr]

theorem State.silenceEnded_record (s : State) (src : Source) (code : Byte) (src' : Source) (code' : Byte) :
    (s.silenceEnded src code).record src' code' =
      if (src', code') = (src, code)
      then (s.record src code).map fun a => if a.state = .activeUnack then { a with silenced := true } else a
      else s.record src' code' := by
  unfold State.silenceEnded
  refine State.changeRecord_record _ _ _ _ (fun a ha => ?_) _ _
  split_ifs
  · simpa [Alert.isFor] using ha
  · exact ha

/-! ### Port records and LIST_OVERFLOW -/

/-- A clear removes port records only under its own source and code, if those are a port's. -/
theorem State.clear_system_portCount (s : State) (code : Byte) :
    portCount (s.clear .system code).alerts = portCount s.alerts := by
  unfold State.clear
  split
  · rfl
  · next a ha =>
    have hid := State.record_isFor ha
    split
    · simp only [State.noticeKept, State.changeRecord, portCount]
      simp only [State.deliver_alerts]
      rw [List.filter_map, List.length_map]
      congr 2
      funext b
      by_cases hb : b.isFor .system code = true
      · have h2 := isFor_iff.mp hb
        simp [Function.comp, hb, Alert.ofPort, hid.1, h2.1]
      · simp [Function.comp, hb]
    · simp only [State.noticeRemoved, State.removeRecord, portCount, State.deliver_alerts]
      rw [List.filter_filter]
      congr 2
      funext b
      by_cases hb : b.isFor .system code = true
      · have h2 := isFor_iff.mp hb
        simp [hb, Alert.ofPort, h2.1]
      · simp [hb]
    · rfl

theorem State.checkOverflow_portCount (s : State) (before : Nat) :
    portCount (s.checkOverflow before).alerts = portCount s.alerts := by
  unfold State.checkOverflow
  split
  · exact s.clear_system_portCount _
  · rfl

/-- LIST_OVERFLOW is cleared where port records were removed and 28 or fewer remain. -/
theorem State.checkOverflow_record (s : State) (before : Nat) (src : Source) (code : Byte) :
    (s.checkOverflow before).record src code =
      if (src, code) = (.system, listOverflowCode) ∧ portCount s.alerts < before ∧ portCount s.alerts ≤ 28
      then afterClear s.now (s.record .system listOverflowCode) else s.record src code := by
  unfold State.checkOverflow
  by_cases h : portCount s.alerts < before ∧ portCount s.alerts ≤ 28
  · rw [if_pos h, State.clear_record]
    simp only [h, and_true]
  · rw [if_neg h, if_neg (fun h2 => h h2.2)]

/-! ### List events -/

/-- After a list event, where the rail does not reach ON, the list is the one the change made. -/
theorem State.listEvent_alerts_plain {f : State → State} (hf : ListOnly f) (s : State)
    (h : ¬s.risesTo (s.listEvent f)) : (s.listEvent f).alerts = (f s).alerts := by
  unfold State.listEvent at h ⊢
  split_ifs at h ⊢ with he
  · rfl
  · have h2 : ¬(s.listChange f).risesTo (s.listChange f).driveReact := fun r =>
      h ⟨(State.risesAtOnce_rail (s.listChange_rail hf) (s.listChange_powerGood hf)).mp r.1,
        s.listChange_rail hf ▸ r.2⟩
    rw [((State.drawnTo_driveReact _).plain h2).1]
    simp [State.listChange]

@[simp] theorem State.listChange_record {f : State → State} (s : State) (src : Source) (code : Byte) :
    (s.listChange f).record src code = (f s).record src code := by
  simp [State.record, State.listChange]

/-- The drive's answer to an event changes no record but DRIVE_FAULT, and that where the rail reaches ON. -/
theorem State.driveReact_record (s : State) (src : Source) (code : Byte)
    (h : (src, code) ≠ (Source.system, driveFaultCode) ∨ ¬s.risesAtOnce) :
    s.driveReact.record src code = s.record src code := by
  have hd := s.drawnTo_driveReact
  rcases h with h | h
  · exact hd.2.2.2.2.1 src code h
  · exact State.record_of_alerts (hd.plain fun r => h r.1).1 _ _

/-- After a list event the records are those the change made, but for DRIVE_FAULT where the rail reaches ON. -/
theorem State.listEvent_record {f : State → State} (hf : ListOnly f) (s : State) (src : Source) (code : Byte)
    (h : (src, code) ≠ (Source.system, driveFaultCode) ∨ ¬s.risesAtOnce) :
    (s.listEvent f).record src code = (f s).record src code := by
  unfold State.listEvent
  split
  · rfl
  · rw [State.driveReact_record, State.listChange_record]
    rcases h with h | h
    · exact Or.inl h
    · refine Or.inr ?_
      rwa [State.risesAtOnce_rail (s.listChange_rail hf) (s.listChange_powerGood hf)]

theorem State.listEvent_alerts {f : State → State} (hf : ListOnly f) (s : State) (h : ¬s.risesAtOnce) :
    (s.listEvent f).alerts = (f s).alerts := by
  unfold State.listEvent
  split
  · rfl
  · have h2 : ¬(s.listChange f).risesAtOnce := by
      rwa [State.risesAtOnce_rail (s.listChange_rail hf) (s.listChange_powerGood hf)]
    rw [((State.drawnTo_driveReact _).plain fun r => h2 r.1).1]
    simp [State.listChange]

@[simp] theorem State.heardSince_record (s b : State) (src : Source) (code : Byte) :
    (b.heardSince s).record src code = s.record src code := by simp [State.record]

@[simp] theorem State.finish_record (s : State) (src : Source) (code : Byte) :
    s.finish.record src code = s.record src code := rfl

@[simp] theorem State.reply_record (s : State) (p : PortId) (tag : Byte) (rc : RequestCode) (r : Reply)
    (src : Source) (code : Byte) : (s.reply p tag rc r).record src code = s.record src code := by
  unfold State.reply
  split <;> rfl

end Sys2Proof.Machine
end

