-- ==== Sys2Proof/Laws/Listed.lean ====
section
/-!
SUPPORT. List events as a whole: the notices that each list operation hands, `listedTo`, `hears` and
`listedFrom` of Sys2Proof/Safety.lean, what a port that does not wait keeps through any of these events, the
rail's rise (`risenTo`), a request as a whole, and what an event that changes nothing of the sounder's inputs
leaves.
-/

namespace Sys2Proof.Machine

/-! ### A port that does not wait -/

/-- A port that does not wait goes on not waiting, with the responses it had. -/
def State.calm (p : PortId) (s t : State) : Prop :=
  s.ports[p].wait = none → t.ports[p].wait = none ∧ t.ports[p].responses = s.ports[p].responses

theorem State.calm_refl (p : PortId) (s : State) : State.calm p s s := fun h => ⟨h, rfl⟩

theorem State.calm.trans {p : PortId} {s t u : State} (h₁ : State.calm p s t) (h₂ : State.calm p t u) :
    State.calm p s u := fun h =>
  have a := h₁ h
  have b := h₂ a.1
  ⟨b.1, b.2.trans a.2⟩

theorem State.calm_of_ports {p : PortId} {s t : State} (h : t.ports = s.ports) : State.calm p s t := by
  intro hw
  rw [h]
  exact ⟨hw, rfl⟩

theorem State.calm_mapPorts (p : PortId) (s : State) (f : PortId → PortUnit → PortUnit)
    (h : ∀ u : PortUnit, u.wait = none → (f p u).wait = none ∧ (f p u).responses = u.responses) :
    State.calm p s (s.mapPorts f) := by
  intro hw
  rw [Fin.getElem_fin, State.mapPorts_port]
  exact h _ hw

theorem State.calm_endWaits (p : PortId) (s : State) (st : Status) (ends : WindowId → Bool) :
    State.calm p s (s.endWaits st ends) :=
  s.calm_mapPorts p _ fun u hu => by simp [hu]

theorem State.calm_compositorEvent (p : PortId) (s : State) (v : View) (ns : List TileId) :
    State.calm p s (s.compositorEvent v ns) :=
  (State.calm_of_ports (s := s) (t := { s with tiles := reportSet v s.view s.now s.panel ns s.tiles }) rfl).trans
    (State.calm_endWaits p _ _ _)

theorem State.quiet.calm {s t : State} (h : s.quiet t) (p : PortId) : State.calm p s t :=
  fun hw => ⟨(h p).1.trans hw, (h p).2⟩

theorem State.calm_listChange {p : PortId} {f : State → State} (s : State) (h : State.calm p s (f s)) :
    State.calm p s (s.listChange f) :=
  h.trans (State.calm_compositorEvent p (f s) s.view bandTiles)

theorem State.calm_heardSince (p : PortId) (s b : State) : State.calm p s (b.heardSince s) :=
  State.calm_of_ports (by simp)

theorem State.calm_driveReact (p : PortId) (s : State) : State.calm p s s.driveReact := by
  unfold State.driveReact
  split
  · split
    · unfold State.enterRising
      split
      · unfold State.reachOn
        refine ((State.calm_of_ports (t := s.setAttempts 0) rfl).trans
          (State.calm_listChange (f := State.clear .system driveFaultCode) _
            ((State.quiet_clear _ _ _).calm p))).trans (State.calm_of_ports ?_)
        simp [State.setRail]
      · exact State.calm_of_ports rfl
    · exact s.calm_refl p
  · exact State.calm_of_ports (by simp)
  · exact s.calm_refl p

theorem State.calm_composed (p : PortId) (s : State) (v : View) (ns : List TileId) :
    State.calm p s (s.composed v ns) :=
  (s.calm_compositorEvent p v ns).trans (State.calm_driveReact p _)

theorem State.calm_listEvent {p : PortId} {f : State → State} (s : State) (h : State.calm p s (f s)) :
    State.calm p s (s.listEvent f) := by
  unfold State.listEvent
  split
  · exact h
  · exact (State.calm_listChange s h).trans (State.calm_driveReact p _)

/-- A port that can take a request does not wait (R180). -/
theorem PortUnit.canTake_wait {u : PortUnit} (h : u.canTake = true) : u.wait = none := by
  simp only [PortUnit.canTake, PortUnit.ready, Bool.and_eq_true, Option.isNone_iff_eq_none] at h
  exact h.1.1

/-- A calm change, the request's response, and the frames begun after it: the response stands last. -/
theorem State.calm.answers {p : PortId} {s t : State} (h : State.calm p s t) (hs : s.ports[p].canTake = true)
    (tag : Byte) (rc : RequestCode) (st : Status) (r : List Byte) :
    s.answers (t.reply p tag rc (some (st, r))).finish p tag rc st r := by
  have := (h (PortUnit.canTake_wait hs)).2
  unfold State.answers State.reply
  rw [Fin.getElem_fin, State.finish_port, PortUnit.startTx_responses, State.modifyPort_port_self]
  simp only [PortUnit.answer]
  rw [← this, Fin.getElem_fin]

/-! ### The notices of each operation -/

/-- A raise hands the notice of `raiseNotice`. -/
theorem State.handed_raise (s : State) (src : Source) (code : Byte) (x : RaiseArgs) :
    s.handed (s.raise src code x) [raiseNotice s.now src code x (s.record src code)] := by
  unfold State.raise
  cases hr : s.record src code with
  | none => exact State.handed_deliver { s with alerts := s.alerts ++ [newAlert src code x s.now] } _
  | some a =>
    have h := State.handed_deliver (s.changeRecord src code (Alert.reraised x))
      (noticeOf (if a.escalatedBy x then .escalated else .reoccurred) (a.reraised x) false
        (a.reraised x).state.ackBy s.now)
    have ha := State.record_isFor hr
    have he : noticeOf (if a.escalatedBy x then .escalated else .reoccurred) (a.reraised x) false
        (a.reraised x).state.ackBy s.now = raiseNotice s.now src code x (some a) := by
      rw [Alert.reraised_eq s.now, ha.1, ha.2]
      simp [raiseNotice, keptNotice, noticeOf, Alert.escalatedBy]
    rw [← he]
    exact h

/-- An acknowledgement hands the notices of `ackNotices`. -/
theorem State.handed_acknowledge (s : State) (b : Acker) (src : Source) (code : Byte) :
    s.handed (s.acknowledge b src code) (ackNotices b s.now (s.record src code)) := by
  unfold State.acknowledge
  cases hr : s.record src code with
  | none => exact s.handed_refl
  | some a =>
    cases ha : a.state with
    | activeUnack =>
      simp only [ackNotices, ha]
      exact State.handed_deliver (s.changeRecord src code fun _ => { a with state := .activeAck b s.now }) _
    | activeAck _ _ =>
      simp only [ackNotices, ha]
      exact s.handed_refl
    | clearedUnack _ =>
      simp only [ackNotices, ha]
      exact State.handed_deliver (s.removeRecord src code) _

/-- A shelving hands its notice. -/
theorem State.handed_shelve {s : State} {src : Source} {code : Byte} {a : Alert}
    (h : s.record src code = some a) (n : Nat) : s.handed (s.shelve src code n)
      [keptNotice .shelved s.now { a with shelved := some (s.shelfExpiry n) }] := by
  unfold State.shelve
  rw [h]
  exact State.handed_deliver (s.changeRecord src code fun _ => { a with shelved := some (s.shelfExpiry n) }) _

/-- The notices of a shelving's end, by the record it finds. -/
def unshelveNotices (now : Stamp) : Option Alert → List Notice
  | none => []
  | some a => if a.shelved = none then [] else [keptNotice .unshelved now { a with shelved := none }]

theorem State.handed_unshelve (s : State) (src : Source) (code : Byte) :
    s.handed (s.unshelve src code) (unshelveNotices s.now (s.record src code)) := by
  unfold State.unshelve
  cases hr : s.record src code with
  | none => exact s.handed_refl
  | some a =>
    cases ha : a.shelved with
    | none =>
      simp only [unshelveNotices, ha, if_true]
      exact s.handed_refl
    | some e =>
      simp only [unshelveNotices, ha, reduceCtorEq, if_false]
      exact State.handed_deliver (s.changeRecord src code fun _ => { a with shelved := none }) _

theorem State.handed_checkOverflow (s : State) (n : Nat) : s.handed (s.checkOverflow n)
    (if portCount s.alerts < n ∧ portCount s.alerts ≤ 28
      then clearNotices s.now (s.record .system listOverflowCode) else []) := by
  unfold State.checkOverflow
  split_ifs
  · exact s.handed_clear _ _
  · exact s.handed_refl

/-- Operations on records under different keys, one after the other, hand their notices in that order. -/
theorem State.handed_foldl {f : State → Source × Byte → State} {notices : Stamp → Option Alert → List Notice}
    (hf : ∀ k, ListOnly fun s => f s k)
    (hh : ∀ (s : State) (k : Source × Byte), s.handed (f s k) (notices s.now (s.record k.1 k.2)))
    (hr : ∀ (s : State) (k : Source × Byte) (src : Source) (code : Byte), (src, code) ≠ k →
      (f s k).record src code = s.record src code)
    (ks : List (Source × Byte)) (hn : ks.Nodup) (s : State) :
    s.handed (ks.foldl f s) (ks.flatMap fun k => notices s.now (s.record k.1 k.2)) := by
  induction ks generalizing s with
  | nil => exact s.handed_refl
  | cons k ks ih =>
    rw [List.nodup_cons] at hn
    rw [List.foldl_cons, List.flatMap_cons]
    have h2 := ih hn.2 (f s k)
    have hnow : (f s k).now = s.now := by simp [State.now, (hf k).time s]
    have he : (ks.flatMap fun j => notices (f s k).now ((f s k).record j.1 j.2)) =
        ks.flatMap fun j => notices s.now (s.record j.1 j.2) := by
      refine List.flatMap_congr fun j hj => ?_
      rw [hnow, hr]
      rintro rfl
      exact hn.1 hj
    rw [he] at h2
    have hw : ∀ (l : List (Source × Byte)) (t : State), (l.foldl f t).windows = t.windows := by
      intro l
      induction l with
      | nil => intro t; rfl
      | cons j l ih =>
        intro t
        rw [List.foldl_cons, ih]
        exact (hf j).windows t
    exact (hh s k).trans h2 (hw ks (f s k))

/-- A record of a list without two of one source and code is the one found under its own. -/
theorem State.record_of_mem {s : State} (h : s.alertsOk = true) {a : Alert} (ha : a ∈ s.alerts) :
    s.record a.source a.code = some a := by
  have hn : (s.alerts.map fun b => (b.source, b.code)).Nodup := by
    simp only [State.alertsOk, Bool.and_eq_true, decide_eq_true_eq] at h
    exact h.1.2
  unfold State.record
  generalize s.alerts = l at ha hn
  induction l with
  | nil => simp at ha
  | cons b l ih =>
    rw [List.map_cons, List.nodup_cons] at hn
    rw [List.find?_cons]
    rcases List.mem_cons.mp ha with rfl | ha
    · simp [Alert.isFor]
    · have : b.isFor a.source a.code = false := by
        rw [Bool.eq_false_iff]
        intro hb
        rw [isFor_iff] at hb
        exact hn.1 (List.mem_map.mpr ⟨a, ha, by rw [hb.1, hb.2]⟩)
      rw [this]
      exact ih ha hn.2

/-- Operations on the records of the list for which `which` holds hand their notices in list order. -/
theorem State.handed_foldl_records {f : State → Source × Byte → State}
    {notices : Stamp → Option Alert → List Notice} (hf : ∀ k, ListOnly fun s => f s k)
    (hh : ∀ (s : State) (k : Source × Byte), s.handed (f s k) (notices s.now (s.record k.1 k.2)))
    (hr : ∀ (s : State) (k : Source × Byte) (src : Source) (code : Byte), (src, code) ≠ k →
      (f s k).record src code = s.record src code)
    {s : State} (h : s.alertsOk = true) (which : Alert → Bool) :
    s.handed (((s.alerts.filter which).map fun a => (a.source, a.code)).foldl f s)
      ((s.alerts.filter which).flatMap fun a => notices s.now (some a)) := by
  have hn : (s.alerts.map fun b => (b.source, b.code)).Nodup := by
    simp only [State.alertsOk, Bool.and_eq_true, decide_eq_true_eq] at h
    exact h.1.2
  have h1 := State.handed_foldl hf hh hr ((s.alerts.filter which).map fun a => (a.source, a.code))
    (hn.sublist (List.filter_sublist.map _)) s
  rw [List.flatMap_map] at h1
  have he : ((s.alerts.filter which).flatMap fun a => notices s.now (s.record a.source a.code)) =
      (s.alerts.filter which).flatMap fun a => notices s.now (some a) :=
    List.flatMap_congr fun a ha => by rw [State.record_of_mem h (List.mem_filter.mp ha).1]
  rwa [he] at h1

/-- Clearing a port hands the notices of its records in list order, then LIST_OVERFLOW's (R111, R116). -/
theorem State.handed_clearPort {s : State} (h : s.alertsOk = true) (p : PortId) :
    s.handed (s.clearPort p) (s.portNotices (s.clearPort p) p) := by
  have hl : ∀ k : Source × Byte, ListOnly fun t : State => t.clear k.1 k.2 := fun k => listOnly_clear _ _
  have h1 := State.handed_foldl_records (f := fun t k => t.clear k.1 k.2) (notices := clearNotices) hl
    (fun t k => t.handed_clear k.1 k.2) (fun t k src code hk => State.clear_record_other hk t) h
    (fun a => decide (a.source = .port p))
  have hmap : ((s.alerts.filter fun a => decide (a.source = .port p)).map fun a => (a.source, a.code)) =
      ((s.alerts.filter fun a => decide (a.source = .port p)).map Alert.code).map fun c => (.port p, c) := by
    rw [List.map_map]
    refine List.map_congr_left fun a ha => ?_
    have := (List.mem_filter.mp ha).2
    simp only [decide_eq_true_eq] at this
    simp [this]
  rw [hmap, List.foldl_map] at h1
  have hd : s.clearPort p = (((s.alerts.filter fun a => decide (a.source = .port p)).map Alert.code).foldl
      (fun t c => t.clear (.port p) c) s).checkOverflow (portCount s.alerts) := rfl
  have hlf : ListOnly fun t : State => ((s.alerts.filter fun a => decide (a.source = .port p)).map
      Alert.code).foldl (fun t c => t.clear (.port p) c) t := listOnly_foldl _ fun c => listOnly_clear _ c
  have hrec : ∀ (l : List Byte) (t : State), (l.foldl (fun t c => t.clear (.port p) c) t).record .system
      listOverflowCode = t.record .system listOverflowCode := by
    intro l
    induction l with
    | nil => intro t; rfl
    | cons c l ih =>
      intro t
      rw [List.foldl_cons, ih]
      exact State.clear_record_other (by simp) t
  have hr := hrec ((s.alerts.filter fun a => decide (a.source = .port p)).map Alert.code) s
  have hnow : (((s.alerts.filter fun a => decide (a.source = .port p)).map Alert.code).foldl
      (fun t c => t.clear (.port p) c) s).now = s.now := by
    simp only [State.now, hlf.time s]
  unfold State.portNotices State.overflowNotices
  rw [hd, State.checkOverflow_portCount]
  generalize (((s.alerts.filter fun a => decide (a.source = .port p)).map Alert.code).foldl
      (fun t c => t.clear (.port p) c) s) = u at *
  have h2 := u.handed_checkOverflow (portCount s.alerts)
  rw [hr, hnow] at h2
  exact h1.trans h2 ((listOnly_checkOverflow _).windows _)

/-- Acknowledging the eligible records hands their notices in list order, then LIST_OVERFLOW's (R104, R111). -/
theorem State.handed_acknowledgeEligible {s : State} (h : s.alertsOk = true) :
    ∃ u : State, s.acknowledgeEligible = u.checkOverflow (portCount s.alerts) ∧ u.now = s.now ∧
      s.handed s.acknowledgeEligible
        (((s.alerts.filter Alert.eligible).flatMap fun a => ackNotices .key s.now (some a)) ++
          if portCount u.alerts < portCount s.alerts ∧ portCount u.alerts ≤ 28
          then clearNotices s.now (u.record .system listOverflowCode) else []) := by
  have hl : ∀ k : Source × Byte, ListOnly fun t : State => t.acknowledge .key k.1 k.2 :=
    fun k => listOnly_acknowledge _ _ _
  have h1 := State.handed_foldl_records (f := fun t k => t.acknowledge .key k.1 k.2)
    (notices := ackNotices .key) hl (fun t k => t.handed_acknowledge .key k.1 k.2)
    (fun t k src code hk => by rw [State.acknowledge_record, if_neg hk]) h Alert.eligible
  have hlf := listOnly_foldl ((s.alerts.filter Alert.eligible).map fun a => (a.source, a.code))
    (f := fun t (k : Source × Byte) => t.acknowledge .key k.1 k.2) hl
  refine ⟨_, rfl, ?_, ?_⟩
  · simp only [State.now, hlf.time s]
  · have hnow : (((s.alerts.filter Alert.eligible).map fun a => (a.source, a.code)).foldl
        (fun t (k : Source × Byte) => t.acknowledge .key k.1 k.2) s).now = s.now := by
      simp only [State.now, hlf.time s]
    have h2 := State.handed_checkOverflow (((s.alerts.filter Alert.eligible).map fun a =>
      (a.source, a.code)).foldl (fun t (k : Source × Byte) => t.acknowledge .key k.1 k.2) s) (portCount s.alerts)
    rw [hnow] at h2
    exact h1.trans h2 ((listOnly_checkOverflow _).windows _)

/-- The shelvings that end hand their notices in list order (R109). -/
theorem State.handed_unshelveExpired {s : State} (h : s.alertsOk = true) :
    s.handed s.unshelveExpired (s.alerts.flatMap (expiryNotices s.now)) := by
  have h1 := State.handed_foldl_records (f := fun t k => t.unshelve k.1 k.2) (notices := unshelveNotices)
    (fun k => listOnly_unshelve _ _) (fun t k => t.handed_unshelve k.1 k.2)
    (fun t k src code hk => by rw [State.unshelve_record, if_neg hk]) h (Alert.expired s.time.seconds)
  have he : ∀ l : List Alert, ((l.filter (Alert.expired s.time.seconds)).flatMap fun a =>
      unshelveNotices s.now (some a)) = l.flatMap (expiryNotices s.now) := by
    intro l
    induction l with
    | nil => rfl
    | cons a l ih =>
      rw [List.flatMap_cons, ← ih, List.filter_cons]
      cases hs : a.shelved with
      | none => simp [Alert.expired, expiryNotices, hs]
      | some e =>
        by_cases hle : e.toNat ≤ s.time.seconds.toNat
        · simp [Alert.expired, expiryNotices, hs, hle, unshelveNotices, State.now]
        · simp [Alert.expired, expiryNotices, hs, hle, State.now]
  rw [he] at h1
  exact h1

/-! ### listedTo -/

theorem clearNotices_fault (s : State) :
    faultCleared s.now (clearNotices s.now (s.record .system driveFaultCode)) := by
  cases h : s.record .system driveFaultCode with
  | none => exact Or.inl rfl
  | some a => exact Or.inr ⟨a, (State.record_isFor h).1, (State.record_isFor h).2, rfl⟩

theorem State.hands_of_handed {s t : State} {ns : List Notice} (h : s.handed t ns) : s.hands t ns :=
  ⟨[], Or.inl (by simpa using h), Or.inl rfl, fun _ => rfl⟩

theorem State.listedTo_refl (s : State) : s.listedTo [] s :=
  ⟨rfl, fun _ => ⟨rfl, rfl⟩, State.jobsStand_of_engines rfl, State.railFollows_of_rail rfl,
    State.hands_of_handed s.handed_refl⟩

/-- Once the rail has reached ON at an event, it does not rise again at it. -/
theorem State.railFollows.risen {s t : State} (h : s.railFollows t) (hs : s.risesTo t) : ¬t.risesAtOnce := by
  intro ht
  unfold State.railFollows at h
  rw [hs.1.1] at h
  rcases h with h | h
  · exact hs.2 h
  · rw [if_pos hs.1.2] at h
    obtain ⟨r, hr⟩ := h
    have ho := ht.1
    rw [hr] at ho
    simp at ho

/-- A rise at the second of two parts of an event is a rise at the event. -/
theorem State.railFollows.risesTo {s t u : State} (h₁ : s.railFollows t) (hg : t.powerGood = s.powerGood)
    (hn : ¬s.risesTo t) (ht : t.risesTo u) : s.risesTo u := by
  by_cases hs : s.risesAtOnce
  · have he : t.rail = s.rail := by
      by_contra hne
      exact hn ⟨hs, hne⟩
    exact ⟨hs, he ▸ ht.2⟩
  · exact absurd ht.1 (h₁.not_rises hg hs)

/-- A rise at the first of two parts of an event is a rise at the event. -/
theorem State.railFollows.risesTo_left {s t u : State} (h₁ : s.railFollows t) (h₂ : t.railFollows u)
    (hs : s.risesTo t) : s.risesTo u := by
  refine ⟨hs.1, fun hu => ?_⟩
  unfold State.railFollows at h₁
  rw [hs.1.1] at h₁
  rcases h₁ with h | h
  · exact hs.2 h
  · rw [if_pos hs.1.2] at h
    obtain ⟨r, hr⟩ := h
    unfold State.railFollows at h₂
    rw [hr] at h₂
    obtain ⟨x, hx⟩ := h₂
    have ho := hs.1.1
    rw [← hu, hx] at ho
    simp at ho

/-- What a change of the list and then the drive's answer hand. -/
theorem State.listedTo.then {s t u : State} {ns : List Notice} (h₁ : s.listedTo ns t) (h₂ : t.drawnTo u) :
    s.listedTo ns u := by
  have hd := h₂
  obtain ⟨f₁, t₁, j₁, r₁, ms, n₁, c₁, e₁⟩ := h₁
  obtain ⟨f₂, t₂, j₂, r₂, _, a₂⟩ := h₂
  have hg : t.powerGood = s.powerGood := by rw [f₁]
  have hn : t.now = s.now := by rw [f₁]; rfl
  have hw : u.windows = t.windows := by rw [f₂]
  refine ⟨by rw [f₂, f₁], fun n => ⟨(t₂ n).1.trans (t₁ n).1, (t₂ n).2.trans (t₁ n).2⟩, j₁.trans j₂,
    r₁.trans hg r₂, ?_⟩
  by_cases ht : t.risesTo u
  · have hs : ¬s.risesTo t := fun hs => r₁.risen hs ht.1
    rw [if_pos ht] at a₂
    rw [e₁ hs] at n₁
    have n₁ : s.handed t ns := by simpa using n₁
    refine ⟨_, Or.inl (n₁.trans a₂.2 hw), ?_, fun h => absurd (r₁.risesTo hg hs ht) h⟩
    rw [← hn]
    exact clearNotices_fault t
  · have n₂ := (hd.plain ht).2.2.2
    refine ⟨ms, ?_, c₁, fun h => e₁ fun hs => h (r₁.risesTo_left r₂ hs)⟩
    rcases n₁ with n₁ | n₁
    · exact Or.inl (by simpa using n₁.trans n₂ hw)
    · exact Or.inr (by simpa using n₁.trans n₂ hw)

theorem State.drawnTo.listed {s t : State} (h : s.drawnTo t) : s.listedTo [] t := s.listedTo_refl.then h

/-- What a composition event and then a change of the list hand. -/
theorem State.drawnTo.then {s t u : State} {ns : List Notice} (h₁ : s.drawnTo t) (h₂ : t.listedTo ns u) :
    s.listedTo ns u := by
  have hd := h₁
  obtain ⟨f₁, t₁, j₁, r₁, _, a₁⟩ := h₁
  obtain ⟨f₂, t₂, j₂, r₂, ms, n₂, c₂, e₂⟩ := h₂
  have hg : t.powerGood = s.powerGood := by rw [f₁]
  have hn : t.now = s.now := by rw [f₁]; rfl
  have hw : u.windows = t.windows := by rw [f₂]
  refine ⟨by rw [f₂, f₁], fun n => ⟨(t₂ n).1.trans (t₁ n).1, (t₂ n).2.trans (t₁ n).2⟩, j₁.trans j₂,
    r₁.trans hg r₂, ?_⟩
  by_cases hs : s.risesTo t
  · rw [if_pos hs] at a₁
    have ht : ¬t.risesTo u := fun ht => r₁.risen hs ht.1
    rw [e₂ ht] at n₂
    have n₂ : t.handed u ns := by simpa using n₂
    exact ⟨_, Or.inr (a₁.2.trans n₂ hw), clearNotices_fault s, fun h => absurd (r₁.risesTo_left r₂ hs) h⟩
  · have n₁ := (hd.plain hs).2.2.2
    refine ⟨ms, ?_, hn ▸ c₂, fun h => e₂ fun ht => h (r₁.risesTo hg hs ht)⟩
    rcases n₂ with n₂ | n₂
    · exact Or.inl (by simpa using n₁.trans n₂ hw)
    · exact Or.inr (by simpa using n₁.trans n₂ hw)

/-- The sounder's choice hands nothing and changes the pattern and the chime queue alone. -/
theorem State.listedTo.heard {s t : State} {ns : List Notice} (h : s.listedTo ns t) (b : State) :
    s.listedTo ns (b.heardSince t) := by
  obtain ⟨f, c, j, r, ms, n, fc, e⟩ := h
  refine ⟨?_, by simpa using c, fun d x hx => by simpa using j d x hx, ?_, ms, ?_, fc, ?_⟩
  · apply State.ext_fields <;> first | rfl | (simp only [State.heardSince_time, State.heardSince_windows,
      State.heardSince_panel, State.heardSince_refreshPeriod, State.heardSince_refreshCount,
      State.heardSince_powerGood, State.heardSince_shelvingDue, State.heardSince_bandHeight,
      State.heardSince_tones, State.heardSince_keys, State.heardSince_supervisor, State.heardSince_remoteTest,
      State.heardSince_blank, State.heardSince_choices, State.heardSince_pending]; rw [f])
  · simpa only [State.railFollows, State.heardSince_rail] using r
  · rcases n with n | n
    · exact Or.inl fun q => by simpa only [State.heardSince_ports, State.heardSince_windows] using n q
    · exact Or.inr fun q => by simpa only [State.heardSince_ports, State.heardSince_windows] using n q
  · simpa [State.risesTo] using e

/-- The operation changes the list, and hands the Port Units notices alone. -/
def HandsOnly (f : State → State) : Prop := ListOnly f ∧ ∀ s : State, ∃ ns, s.handed (f s) ns

/-- A change of the list that hands these notices. -/
theorem State.listedTo_of_handed {f : State → State} (h : ListOnly f) {s : State} {ns : List Notice}
    (hn : s.handed (f s) ns) : s.listedTo ns (f s) := by
  refine ⟨?_, fun n => ?_, State.jobsStand_of_engines (h.engines s), State.railFollows_of_rail (h.rail s),
    State.hands_of_handed hn⟩
  · apply State.ext_fields <;>
      simp [h.time, h.windows, h.panel, h.refreshPeriod, h.refreshCount, h.powerGood, h.shelvingDue,
        h.bandHeight, h.tones, h.keys, h.supervisor, h.remoteTest, h.blank, h.choices, h.pending]
  · rw [h.tiles]
    exact ⟨rfl, rfl⟩

theorem handsOnly_id : HandsOnly fun s => s := ⟨listOnly_id, fun s => ⟨[], s.handed_refl⟩⟩

theorem HandsOnly.comp {f g : State → State} (hf : HandsOnly f) (hg : HandsOnly g) :
    HandsOnly fun s => g (f s) := by
  refine ⟨hf.1.comp hg.1, fun s => ?_⟩
  obtain ⟨ns, h₁⟩ := hf.2 s
  obtain ⟨ms, h₂⟩ := hg.2 (f s)
  exact ⟨ns ++ ms, h₁.trans h₂ (hg.1.windows _)⟩

theorem handsOnly_foldl {α : Type} (l : List α) {f : State → α → State}
    (h : ∀ a, HandsOnly fun s => f s a) : HandsOnly fun s => l.foldl f s := by
  induction l with
  | nil => exact handsOnly_id
  | cons a l ih => exact (h a).comp ih

theorem handsOnly_raise (src : Source) (code : Byte) (x : RaiseArgs) : HandsOnly (State.raise src code x) :=
  ⟨listOnly_raise _ _ _, fun s => ⟨_, s.handed_raise _ _ _⟩⟩

theorem handsOnly_clear (src : Source) (code : Byte) : HandsOnly (State.clear src code) :=
  ⟨listOnly_clear _ _, fun s => ⟨_, s.handed_clear src code⟩⟩

theorem handsOnly_acknowledge (b : Acker) (src : Source) (code : Byte) :
    HandsOnly (State.acknowledge b src code) :=
  ⟨listOnly_acknowledge _ _ _, fun s => ⟨_, s.handed_acknowledge _ _ _⟩⟩

theorem handsOnly_shelve (src : Source) (code : Byte) (n : Nat) : HandsOnly (State.shelve src code n) := by
  refine ⟨listOnly_shelve _ _ _, fun s => ?_⟩
  cases h : s.record src code with
  | none =>
    refine ⟨[], ?_⟩
    unfold State.shelve
    rw [h]
    exact s.handed_refl
  | some a => exact ⟨_, State.handed_shelve h n⟩

theorem handsOnly_unshelve (src : Source) (code : Byte) : HandsOnly (State.unshelve src code) :=
  ⟨listOnly_unshelve _ _, fun s => ⟨_, s.handed_unshelve _ _⟩⟩

theorem handsOnly_checkOverflow (n : Nat) : HandsOnly (State.checkOverflow n) :=
  ⟨listOnly_checkOverflow _, fun s => ⟨_, s.handed_checkOverflow n⟩⟩

theorem handsOnly_clearPort (p : PortId) : HandsOnly (State.clearPort p) :=
  ⟨listOnly_clearPort p, fun s =>
    ((handsOnly_foldl _ fun c => handsOnly_clear (.port p) c).comp (handsOnly_checkOverflow _)).2 s⟩

theorem handsOnly_acknowledgeEligible : HandsOnly State.acknowledgeEligible :=
  ⟨listOnly_acknowledgeEligible, fun s => ((handsOnly_foldl _ fun (k : Source × Byte) =>
    handsOnly_acknowledge .key k.1 k.2).comp (handsOnly_checkOverflow _)).2 s⟩

theorem handsOnly_unshelveExpired : HandsOnly State.unshelveExpired :=
  ⟨listOnly_unshelveExpired, fun s => (handsOnly_foldl _ fun (k : Source × Byte) =>
    handsOnly_unshelve k.1 k.2).2 s⟩

theorem handsOnly_silenceAll : HandsOnly State.silenceAll :=
  ⟨listOnly_silenceAll, fun _ => ⟨[], State.handed_of_ports rfl⟩⟩

theorem handsOnly_silenceEnded (src : Source) (code : Byte) : HandsOnly (State.silenceEnded src code) :=
  ⟨listOnly_silenceEnded _ _, fun _ => ⟨[], State.handed_of_ports rfl⟩⟩

theorem State.listedTo_listChange {f : State → State} (hf : ListOnly f) {s : State} {ns : List Notice}
    (hn : s.handed (f s) ns) : s.listedTo ns (s.listChange f) :=
  (State.listedTo_of_handed hf hn).then (State.drawnPlain_compositorEvent _ _ _).drawn

/-- A list event whose change hands these notices. -/
theorem State.listedTo_listEvent {f : State → State} (hf : ListOnly f) {s : State} {ns : List Notice}
    (hn : s.handed (f s) ns) : s.listedTo ns (s.listEvent f) := by
  unfold State.listEvent
  split
  · exact State.listedTo_of_handed hf hn
  · exact (State.listedTo_listChange hf hn).then (State.drawnTo_driveReact _)

/-- A change, and the request's response beside it. -/
theorem State.listedTo.answered {s t : State} {ns : List Notice} (h : s.listedTo ns t) {p : PortId}
    (hp : s.ports[p].wait = none) (tag : Byte) (rc : RequestCode) (st : Status) (r : List Byte) :
    (s.answered p tag rc st r).listedTo ns (t.reply p tag rc (some (st, r))) := by
  obtain ⟨f, c, j, w, ms, n, fc, e⟩ := h
  refine ⟨?_, c, j, w, ms, ?_, fc, e⟩
  · apply State.ext_fields <;> first | rfl | (simp [State.answered, State.reply]; rw [f])
  · exact n.imp (fun n => n.answered hp tag rc st r) fun n => n.answered hp tag rc st r

/-! ### hears -/

/-- The choice reads and changes the sounder's own inputs alone. -/
theorem State.chooseSource_congr {s u : State} (ha : u.alerts = s.alerts) (hp : u.panelTest = s.panelTest)
    (hc : u.chimes = s.chimes) (hq : u.pattern = s.pattern) (ht : u.tones = s.tones) :
    u.chooseSource.chimes = s.chooseSource.chimes ∧ u.chooseSource.pattern = s.chooseSource.pattern := by
  have hs : u.selectSource = s.selectSource := by
    unfold State.selectSource
    rw [ha, hp, hc]
  unfold State.chooseSource
  rw [hs, hq]
  split
  · exact ⟨hc, rfl⟩
  · split
    · simp only [State.startPattern, ht, hc, and_self]
    · split_ifs
      · exact ⟨hc, hq⟩
      · simp only [State.startPattern, ht, hc, and_self]
      · simp only [State.startPattern, ht, hc, and_self]
      · simp only [State.startPattern, ht, hc, and_self]

/-- A pattern that plays the source that applies goes on at a choice. -/
theorem State.chooseSource_of_soundOk {s : State} (h : s.soundOk = true) : s.chooseSource = s := by
  unfold State.soundOk at h
  rw [decide_eq_true_iff] at h
  unfold State.chooseSource
  cases hp : s.pattern with
  | none =>
    rw [hp] at h
    rw [← h]
    simp only [Option.map_none]
    rw [← hp]
  | some pt =>
    rw [hp] at h
    rw [← h]
    simp

/-- The choice at the end of an event: `b` is the state the event found, `t` the one its changes left, with
the sounder as `s` has it. -/
theorem State.hears_heardSince {s b t : State} (hb : b.soundOk = true) (hq : b.pattern = s.pattern)
    (hc : t.chimes = s.chimes) (hp : t.pattern = s.pattern) (ht : t.panelTest = s.panelTest)
    (hn : t.tones = s.tones) : s.hears (b.heardSince t) := by
  have hal : (b.heardSince t).alerts = t.alerts := by simp
  unfold State.hears
  rw [hal]
  have hcs := State.chooseSource_congr (s := t) (u := { s with alerts := t.alerts }) rfl ht.symm hc.symm hp.symm
    hn.symm
  simp only
  rw [hcs.1, hcs.2]
  unfold State.heardSince
  split
  · next h =>
    have hok : t.soundOk = true := by
      unfold State.soundOk at hb ⊢
      rw [decide_eq_true_iff] at hb ⊢
      rw [hp, ← hq, hb]
      unfold State.selectSource
      rw [h.1, h.2.1, h.2.2]
    rw [State.chooseSource_of_soundOk hok]
    exact ⟨rfl, rfl⟩
  · exact ⟨rfl, rfl⟩

/-- The choice reads nothing of the Port Units. -/
theorem State.hears.answered {s t : State} (h : s.hears t) (p : PortId) (tag : Byte) (rc : RequestCode)
    (st : Status) (r : List Byte) :
    (s.answered p tag rc st r).hears (t.reply p tag rc (some (st, r))) := by
  unfold State.hears at h ⊢
  have e := State.chooseSource_congr (s := { s with alerts := t.alerts })
    (u := { s.answered p tag rc st r with alerts := t.alerts }) rfl rfl rfl rfl rfl
  have h1 : (t.reply p tag rc (some (st, r))).alerts = t.alerts := rfl
  have h2 : (t.reply p tag rc (some (st, r))).chimes = t.chimes := rfl
  have h3 : (t.reply p tag rc (some (st, r))).pattern = t.pattern := rfl
  rw [h1, h2, h3]
  simp only at h ⊢
  rw [e.1, e.2]
  exact h

theorem State.listEvent_sounder {f : State → State} (hf : ListOnly f) (s : State) :
    (s.listEvent f).chimes = s.chimes ∧ (s.listEvent f).pattern = s.pattern ∧
      (s.listEvent f).panelTest = s.panelTest ∧ (s.listEvent f).tones = s.tones := by
  unfold State.listEvent
  split
  · exact ⟨hf.chimes s, hf.pattern s, by simp [State.panelTest, hf.keys, hf.remoteTest], hf.tones s⟩
  · refine ⟨?_, ?_, ?_, ?_⟩ <;> simp [State.panelTest, hf]

/-- A request whose work is a list event that hands these notices, with the sounder's choice and the response
after it, and the frames begun. -/
theorem State.listedFrom_answered {f : State → State} (hf : ListOnly f) {s : State} {ns : List Notice}
    (hn : s.handed (f s) ns) {p : PortId} (hp : s.ports[p].wait = none) (tag : Byte) (rc : RequestCode)
    (st : Status) (r : List Byte) : (s.answered p tag rc st r).listedFrom s ns
      (((s.heardSince (s.listEvent f)).reply p tag rc (some (st, r))).finish) := by
  obtain ⟨h1, h2, h3, h4⟩ := State.listEvent_sounder hf s
  exact ⟨_, ((State.listedTo_listEvent hf hn).heard s).answered hp tag rc st r,
    fun hb => (State.hears_heardSince hb rfl h1 h2 h3 h4).answered p tag rc st r, rfl⟩

/-- An event whose change is a list event that hands these notices, taken whole: `b` is the state it found, `s`
that state with the event's own changes outside the list. -/
theorem State.listedFrom_whole {f : State → State} (hf : ListOnly f) {s b : State} {ns : List Notice}
    (hn : s.handed (f s) ns) (hb : b.pattern = s.pattern) :
    s.listedFrom b ns (b.heardSince (s.listEvent f)).finish := by
  obtain ⟨h1, h2, h3, h4⟩ := State.listEvent_sounder hf s
  exact ⟨_, (State.listedTo_listEvent hf hn).heard b, fun hs => State.hears_heardSince hs hb h1 h2 h3 h4, rfl⟩

/-! ### The rail's rise -/

/-- A rise from any state (R77, R78), before the sounder's choice. -/
theorem State.risenTo_enterRising (s : State) : s.risenTo s.enterRising := by
  unfold State.enterRising State.risenTo
  by_cases hp : s.powerGood = true
  · obtain ⟨_, hj, _, hd, hk, hn⟩ := s.reachOn_effects
    obtain ⟨ha, hw, hr⟩ := s.reachOn_picture
    rw [if_pos hp, if_pos hp]
    refine ⟨hr, hj, ?_, hk, hn, ha, hw, fun _ => ⟨by simp, by simp⟩, ?_⟩
    · rw [hd, State.clear_record, if_pos rfl]
    · conv_lhs => rw [s.reachOn_frame]
      simp
  · rw [if_neg hp, if_neg hp]
    rfl

/-- The sounder's choice after a rise: `b` is the state the event found. -/
theorem State.risenTo.heard {s t b : State} (h : s.risenTo t) (ha : b.alerts = s.alerts)
    (hp : b.panelTest = s.panelTest) (hc : b.chimes = s.chimes) : s.risenTo (b.heardSince t) := by
  unfold State.risenTo at h ⊢
  have hpt : ∀ {u : State}, u.keys = s.keys → u.remoteTest = s.remoteTest → u.panelTest = b.panelTest := by
    intro u h1 h2
    rw [hp]
    simp [State.panelTest, h1, h2]
  split_ifs at h ⊢ with hg
  · obtain ⟨hr, hj, hd, hk, hn, ht, hw, hs, f⟩ := h
    have e : t.keys = s.keys ∧ t.remoteTest = s.remoteTest := by
      rw [f]
      exact ⟨rfl, rfl⟩
    by_cases hq : t.alerts = s.alerts
    · have : b.heardSince t = t := by
        unfold State.heardSince
        rw [if_pos ⟨hq.trans ha.symm, hpt e.1 e.2, (hs hq).1.trans hc.symm⟩]
      rw [this]
      exact ⟨hr, hj, hd, hk, hn, ht, hw, hs, f⟩
    · have hk' : (b.heardSince t).alerts = t.alerts := by simp
      have hl : t.alike (b.heardSince t) := by apply State.alike_of_eq <;> simp
      have hrt : s.reportedTiles (b.heardSince t) bandRows = s.reportedTiles t bandRows :=
        State.reportedTiles_congr rfl rfl rfl rfl hl.1 _
      refine ⟨by simpa [State.holdAfter, State.anyWaiting, State.anyBusy] using hr,
        fun d x hx => by simpa using hj d x hx, ?_,
        hk.trans (State.keepsRecords_of_alerts hk'), fun q => ?_, ?_,
        ?_, fun h => absurd (hk'.symm.trans h) hq, ?_⟩
      · rwa [State.heardSince_record]
      · simpa only [State.heardSince_ports, State.heardSince_windows] using hn q
      · exact ht.congr ((t.alike_tiles _ _).symm.trans (hl.trans (State.alike_tiles _ _ _))) rfl
          hrt (by simp) (by simp)
      · rw [hrt]
        exact hw.congr (fun _ => rfl) (fun _ => by simp) (by simp) fun _ _ => Iff.rfl
      · apply State.ext_fields <;> first | rfl | (simp only [State.heardSince_time, State.heardSince_windows,
          State.heardSince_panel, State.heardSince_refreshPeriod, State.heardSince_refreshCount,
          State.heardSince_powerGood, State.heardSince_shelvingDue, State.heardSince_bandHeight,
          State.heardSince_tones, State.heardSince_keys, State.heardSince_supervisor, State.heardSince_remoteTest,
          State.heardSince_blank, State.heardSince_choices, State.heardSince_pending]; rw [f])
  · have : b.heardSince t = t := by
      unfold State.heardSince
      rw [if_pos ⟨by rw [h, ha], hpt (by rw [h]) (by rw [h]), by rw [h, hc]⟩]
    rwa [this]

/-! ### The sounder's choice -/

/-- The choice is of the source that applies (R138). -/
theorem State.soundOk_chooseSource (s : State) : s.chooseSource.soundOk = true := by
  unfold State.soundOk
  rw [decide_eq_true_iff]
  have hsel : ∀ (c : List ToneId) (pt : Option Pattern) (x : SoundSource × ToneId),
      s.selectSource = some x → x.1 ≠ .chime →
      State.selectSource { s with chimes := c, pattern := pt } = some x := by
    intro c pt x hx hne
    unfold State.selectSource at hx ⊢
    change (if s.panelTest = true then _ else _) = _ at hx ⊢
    by_cases ht : s.panelTest = true
    · rwa [if_pos ht] at hx ⊢
    · rw [if_neg ht] at hx ⊢
      cases ha : soundingAlert s.alerts with
      | some a => rwa [ha] at hx
      | none =>
        rw [ha] at hx
        cases hc : s.chimes with
        | nil => simp [hc] at hx
        | cons t tail =>
          simp only [hc, Option.some.injEq] at hx
          subst hx
          exact absurd rfl hne
  have hpat : ∀ pt : Option Pattern, State.selectSource { s with pattern := pt } = s.selectSource := by
    intro pt
    rfl
  unfold State.chooseSource
  split
  · next h => simpa [hpat] using h.symm
  · next src entry h =>
    split
    · simpa [State.startPattern, hpat] using h.symm
    · next pt hpt =>
      split_ifs with h1 h2 h3
      · rw [hpt, h, ← h1, ← h2]
        rfl
      · simpa [State.startPattern, hpat] using h.symm
      · have hne : src ≠ .chime := fun e => h1 (by rw [h3, e])
        simpa [State.startPattern] using (hsel s.chimes.tail _ (src, entry) h hne).symm
      · simpa [State.startPattern, hpat] using h.symm

@[simp] theorem State.chooseSource_chooseSource (s : State) : s.chooseSource.chooseSource = s.chooseSource :=
  State.chooseSource_of_soundOk s.soundOk_chooseSource

/-- The choice after an event keeps, or brings, a pattern that plays the source that applies. -/
theorem State.soundOk_heardSince {s t : State} (hs : s.soundOk = true) (hp : t.pattern = s.pattern) :
    (s.heardSince t).soundOk = true := by
  unfold State.heardSince
  split
  · next h =>
    unfold State.soundOk at hs ⊢
    rw [decide_eq_true_iff] at hs ⊢
    unfold State.selectSource at hs ⊢
    rw [h.1, h.2.1, h.2.2, hp]
    exact hs
  · exact t.soundOk_chooseSource

/-- An event that changes none of the sounder's inputs leaves the sounder. -/
theorem State.heardSince_of_same {b s : State} (ha : s.alerts = b.alerts) (hp : s.panelTest = b.panelTest)
    (hc : s.chimes = b.chimes) : b.heardSince s = s := by
  unfold State.heardSince
  rw [if_pos ⟨ha, hp, hc⟩]

@[simp] theorem State.heardSince_self (s : State) : s.heardSince s = s := State.heardSince_of_same rfl rfl rfl

/-- An event that changes none of the sounder's inputs, taken whole. -/
theorem State.whole_of_same {f : State → State} {s : State} (ha : (f s).alerts = s.alerts)
    (hp : (f s).panelTest = s.panelTest) (hc : (f s).chimes = s.chimes) : s.whole f = (f s).finish := by
  unfold State.whole
  rw [State.heardSince_of_same ha hp hc]

/-! ### A request as a whole -/

/-- A request that passes admission is its block's work, the sounder's choice, the response, and the frames
begun after it. -/
theorem takeDirect_admitted {p : PortId} {s : State} (hs : s.serves p) (tag : Byte) (rc : RequestCode)
    (lengthOk inRange sup : Bool) (run : State → State × Reply) (hl : lengthOk = true) (hr : inRange = true)
    (hp : sup = true → s.supervisor = some p) :
    takeDirect p (admission p tag rc lengthOk inRange sup run) s =
      .next ((s.heardSince (run s).1).reply p tag rc (run s).2).finish := by
  have h1 : s.ports[(p : Nat)].state = .attached := hs.1
  have h2 : (sup && !s.isSupervisor p) = false := by
    cases sup
    · rfl
    · simp [State.isSupervisor, hp rfl]
  unfold takeDirect admission
  rw [if_pos hs.2]
  simp [h1, h2, hl, hr]

theorem afterDue_same {p : PortId} {first : State → State} {s : State} (h : first s = s)
    (run : State → State × Reply) : afterDue p first run s = run s := by
  unfold afterDue
  rw [h, if_pos rfl]

theorem State.lossFirst_of_not_due {p : PortId} {s : State} (h : s.ports[p].lossDue = false) :
    s.lossFirst p = s := by
  unfold State.lossFirst
  rw [h]
  rfl

theorem State.secondFirst_of_not_due {p : PortId} {s : State} (h : s.ports[p].lossDue = false)
    (h2 : s.time.secondDue = false) : s.secondFirst p = s := by
  unfold State.secondFirst
  rw [h2]
  exact State.lossFirst_of_not_due h

theorem State.expiryFirst_of_not_due {s : State} (h : s.refreshDue = false) : s.expiryFirst = s := by
  unfold State.expiryFirst
  rw [h]
  rfl

theorem State.settle_of_none {s : State} (h : s.dueNow = []) : s.settle = s := by
  unfold State.settle State.takeAllDue
  rw [if_pos h]

/-- A port that can take a request is not about to be lost (R187; log 8). -/
theorem PortUnit.canTake_lossDue {u : PortUnit} (h : u.canTake = true) : u.lossDue = false := by
  simp only [PortUnit.canTake, Bool.and_eq_true, Bool.not_eq_true'] at h
  exact h.2

end Sys2Proof.Machine
end

