-- ==== Sys2Proof/Laws/Settle.lean ====
section
/-!
SUPPORT. The events that a tick leaves due: no operation of an event makes one due (`State.noNew`), each due
event that is taken is no longer due (`State.whole_act_due`), and after `State.settle` none is
(`State.settle_dueNow`), the events having been taken as their rows take them (`State.takesDue_settle`).
-/

namespace Sys2Proof.Machine

/-! ### What makes no event due -/

/-- A timer of the rail is at its end. -/
def RailState.atEnd : RailState → Bool
  | .rising 0 => true
  | .on (some 0) => true
  | .falling 0 => true
  | .fault (some 0) => true
  | _ => false

/-- The port's loss or the end of its wait is due in `v` only where it is in `u`. -/
def PortUnit.noNew (u v : PortUnit) : Prop :=
  (v.lossDue = true → u.lossDue = true) ∧ (v.timeoutDue = true → u.timeoutDue = true)

/-- The part of the laws of the tone table (R133) and the rail (R74) that due events rest on. -/
def State.sound (s : State) : Prop := s.tonesOk = true ∧ 1 ≤ s.rail.holdSetting

/-- From a sound state, no event is due in `t` that is not due in `s`; the tone table and the hold setting
stand. -/
def State.noNew (s t : State) : Prop :=
  s.sound → (∀ d, t.isDue d = true → s.isDue d = true) ∧ t.tones = s.tones ∧
    t.rail.holdSetting = s.rail.holdSetting

theorem PortUnit.noNew_refl (u : PortUnit) : u.noNew u := ⟨id, id⟩

theorem PortUnit.noNew.trans {u v w : PortUnit} (h₁ : u.noNew v) (h₂ : v.noNew w) : u.noNew w :=
  ⟨fun h => h₁.1 (h₂.1 h), fun h => h₁.2 (h₂.2 h)⟩

theorem State.sound.of_eq {s t : State} (h : s.sound) (ht : t.tones = s.tones)
    (hh : t.rail.holdSetting = s.rail.holdSetting) : t.sound := by
  unfold State.sound State.tonesOk at h ⊢
  rwa [ht, hh]

theorem State.noNew_refl (s : State) : s.noNew s := fun _ => ⟨fun _ => id, rfl, rfl⟩

theorem State.noNew.trans {s t u : State} (h₁ : s.noNew t) (h₂ : t.noNew u) : s.noNew u := by
  intro hs
  obtain ⟨a, at_, ah⟩ := h₁ hs
  obtain ⟨b, bt, bh⟩ := h₂ (hs.of_eq at_ ah)
  exact ⟨fun d h => a d (b d h), bt.trans at_, bh.trans ah⟩

/-- What is due follows from these fields: the engines, the rail's state, the pattern, the Port Units, and
those that stand. -/
theorem State.noNew_of {s t : State} (h : s.sound →
    t.keys = s.keys ∧ t.time = s.time ∧ t.shelvingDue = s.shelvingDue ∧ t.refreshPeriod = s.refreshPeriod ∧
    t.refreshCount = s.refreshCount ∧ t.tones = s.tones ∧ t.rail.holdSetting = s.rail.holdSetting ∧
    (∀ e, t.completionDue e = true → s.completionDue e = true) ∧
    (t.rail.state = s.rail.state ∨ t.rail.state.atEnd = false) ∧
    (t.periodDue = true → s.periodDue = true) ∧ ∀ p : PortId, s.ports[p].noNew t.ports[p]) : s.noNew t := by
  intro hs
  obtain ⟨k, tm, sh, rp, rc, ts, hh, e, r, pt, po⟩ := h hs
  refine ⟨fun d hd => ?_, ts, hh⟩
  have rail : ∀ x : RailState, x.atEnd = true → t.rail.state = x → s.rail.state = x := by
    intro x hx hr
    rcases r with r | r
    · rw [← r, hr]
    · rw [hr, hx] at r
      simp at r
  cases d
  case completion => exact e _ hd
  case rise => exact decide_eq_true (rail _ rfl (of_decide_eq_true hd))
  case hold => exact decide_eq_true (rail _ rfl (of_decide_eq_true hd))
  case fall => exact decide_eq_true (rail _ rfl (of_decide_eq_true hd))
  case retry => exact decide_eq_true (rail _ rfl (of_decide_eq_true hd))
  case period => exact pt hd
  case refresh =>
    have : t.refreshDue = s.refreshDue := by
      unfold State.refreshDue
      rw [rp, rc]
    exact this.symm.trans hd
  case loss p => exact (po p).1 hd
  case waitEnd p => exact (po p).2 hd
  all_goals (simp only [State.isDue] at hd ⊢; first | rwa [k] at hd | rwa [tm] at hd | rwa [sh] at hd)

/-! ### The parts of an event -/

theorem State.periodDue_of_pattern {s t : State} (h : t.pattern = s.pattern) : t.periodDue = s.periodDue := by
  unfold State.periodDue
  rw [h]

theorem State.completionDue_of_engines {s t : State} (h : t.engines = s.engines) (e : EngineId) :
    t.completionDue e = s.completionDue e := by
  unfold State.completionDue
  rw [h]

/-- A change that leaves every counted field but those of the Port Units. -/
theorem State.noNew_of_ports {s t : State} (hk : t.keys = s.keys) (ht : t.time = s.time)
    (hs : t.shelvingDue = s.shelvingDue) (hp : t.refreshPeriod = s.refreshPeriod)
    (hc : t.refreshCount = s.refreshCount) (hn : t.tones = s.tones) (he : t.engines = s.engines)
    (hr : t.rail = s.rail) (ha : t.pattern = s.pattern) (ho : ∀ p : PortId, s.ports[p].noNew t.ports[p]) :
    s.noNew t := State.noNew_of fun _ =>
  ⟨hk, ht, hs, hp, hc, hn, by rw [hr], fun e h => by rwa [State.completionDue_of_engines he] at h,
    Or.inl (by rw [hr]), fun h => by rwa [State.periodDue_of_pattern ha] at h, ho⟩

theorem PortUnit.noNew_noticed (q : PortId) (ns : List Notice) (u : PortUnit) : u.noNew (u.noticed q ns) := by
  unfold PortUnit.noticed
  induction ns generalizing u with
  | nil => exact u.noNew_refl
  | cons n ns ih =>
    refine PortUnit.noNew.trans (v := u.takeNotice q n) ?_ (ih _)
    obtain ⟨c, x, f, h⟩ := PortUnit.takeNotice_frame q n u
    rw [h]
    exact u.noNew_refl

theorem PortUnit.noNew_endsWait {c : WindowId → Prop} {u v : PortUnit} (h : u.endsWait c v) : u.noNew v := by
  rcases h with rfl | ⟨_, _, _, _, rfl⟩
  · exact PortUnit.noNew_refl _
  · exact ⟨id, fun h => by simp [PortUnit.timeoutDue] at h⟩

theorem State.handed.noNew {s t : State} {ns : List Notice} (h : s.handed t ns) (p : PortId) :
    s.ports[p].noNew t.ports[p] := (PortUnit.noNew_noticed p ns _).trans (PortUnit.noNew_endsWait (h p))

theorem State.noNew_mapPorts (s : State) (f : PortId → PortUnit → PortUnit)
    (h : ∀ p u, PortUnit.noNew u (f p u)) : s.noNew (s.mapPorts f) :=
  State.noNew_of_ports rfl rfl rfl rfl rfl rfl rfl rfl rfl fun p => by
    rw [Fin.getElem_fin, Fin.getElem_fin, State.mapPorts_port]
    exact h _ _

theorem State.noNew_modifyPort (s : State) (p : PortId) {f : PortUnit → PortUnit}
    (h : ∀ u, PortUnit.noNew u (f u)) : s.noNew (s.modifyPort p f) :=
  State.noNew_of_ports rfl rfl rfl rfl rfl rfl rfl rfl rfl fun q => by
    rw [Fin.getElem_fin, Fin.getElem_fin, State.modifyPort_port]
    split
    · exact h _
    · exact PortUnit.noNew_refl _

theorem PortUnit.noNew_endWait (st : Status) (u : PortUnit) : u.noNew (u.endWait st) := by
  unfold PortUnit.endWait
  split
  · exact u.noNew_refl
  · exact ⟨id, fun h => by simp [PortUnit.timeoutDue, PortUnit.answer] at h⟩

theorem State.noNew_endWaits (s : State) (st : Status) (ends : WindowId → Bool) : s.noNew (s.endWaits st ends) := by
  refine s.noNew_mapPorts _ fun _ u => ?_
  split
  · split
    · exact u.noNew_endWait st
    · exact u.noNew_refl
  · exact u.noNew_refl

theorem State.noNew_finish (s : State) : s.noNew s.finish :=
  s.noNew_mapPorts _ fun _ u => by simp [PortUnit.noNew, PortUnit.lossDue, PortUnit.timeoutDue]

theorem State.noNew_compositorEvent (s : State) (v : View) (ns : List TileId) :
    s.noNew (s.compositorEvent v ns) :=
  State.noNew_of_ports rfl rfl rfl rfl rfl rfl rfl rfl rfl
    ((s.drawnPlain_compositorEvent v ns).handed.noNew)

theorem State.noNew_handsOnly {f : State → State} (h : HandsOnly f) (s : State) : s.noNew (f s) := by
  obtain ⟨ns, hn⟩ := h.2 s
  exact State.noNew_of_ports (h.1.keys s) (h.1.time s) (h.1.shelvingDue s) (h.1.refreshPeriod s)
    (h.1.refreshCount s) (h.1.tones s) (h.1.engines s) (h.1.rail s) (h.1.pattern s) hn.noNew

theorem State.noNew_listChange {f : State → State} (h : HandsOnly f) (s : State) : s.noNew (s.listChange f) :=
  (State.noNew_handsOnly h s).trans (State.noNew_compositorEvent _ _ _)

theorem State.noNew_handOne (s : State) : s.noNew s.handOne := by
  unfold State.handOne
  split
  · split
    · next e n he _ =>
      refine State.noNew_of fun _ => ⟨rfl, rfl, rfl, rfl, rfl, rfl, rfl, fun d h => ?_, Or.inl rfl, id,
        fun _ => PortUnit.noNew_refl _⟩
      by_cases hd : e = d
      · subst hd
        simp only [State.completionDue, State.startJob, Fin.getElem_fin, Vector.getElem_set_self] at h
        cases hw : s.tiles[n].waveform <;> simp_all [Waveform.length]
      · have hd' : (e : Nat) ≠ d := fun h => hd (Fin.ext h)
        simpa [State.completionDue, State.startJob, hd'] using h
    · exact s.noNew_refl
  · exact s.noNew_refl

theorem State.noNew_arbiter (s : State) : s.noNew s.arbiter :=
  (s.noNew_handOne.trans (State.noNew_handOne _)).trans
    ((State.noNew_handOne _).trans (State.noNew_handOne _))

/-- The rail takes a state whose timer is not at its end. -/
theorem State.noNew_setRail (s : State) {r : RailState} (h : r.atEnd = false) : s.noNew (s.setRail r) :=
  State.noNew_of fun _ => ⟨rfl, rfl, rfl, rfl, rfl, rfl, rfl, fun _ h => h, Or.inr h, id,
    fun _ => PortUnit.noNew_refl _⟩

theorem State.noNew_setAttempts (s : State) (n : Nat) : s.noNew (s.setAttempts n) :=
  State.noNew_of fun _ => ⟨rfl, rfl, rfl, rfl, rfl, rfl, rfl, fun _ h => h, Or.inl rfl, id,
    fun _ => PortUnit.noNew_refl _⟩

theorem Rail.holdLength_atEnd {r : Rail} (h : 1 ≤ r.holdSetting) :
    (RailState.on (some r.holdLength)).atEnd = false := by
  unfold Rail.holdLength
  obtain ⟨n, hn⟩ : ∃ n, r.holdSetting * 64 = n + 1 := ⟨r.holdSetting * 64 - 1, by omega⟩
  rw [hn]
  rfl

theorem State.noNew_checkHold (s : State) : s.noNew s.checkHold := by
  unfold State.checkHold
  split
  · split
    · exact s.noNew_setRail rfl
    · split
      · exact s.noNew_refl
      · exact fun hs => s.noNew_setRail (Rail.holdLength_atEnd hs.2) hs
  · exact s.noNew_refl

theorem State.noNew_reachOn (s : State) : s.noNew s.reachOn :=
  (((s.noNew_setAttempts 0).trans (State.noNew_listChange (handsOnly_clear _ _) _)).trans
    (State.noNew_setRail _ rfl)).trans ((State.noNew_arbiter _).trans (State.noNew_checkHold _))

theorem State.noNew_enterRising (s : State) : s.noNew s.enterRising := by
  unfold State.enterRising
  split
  · exact s.noNew_reachOn
  · exact s.noNew_setRail rfl

theorem State.noNew_driveReact (s : State) : s.noNew s.driveReact := by
  unfold State.driveReact
  split
  · split
    · exact s.noNew_enterRising
    · exact s.noNew_refl
  · exact s.noNew_arbiter.trans (State.noNew_checkHold _)
  · exact s.noNew_refl

theorem State.noNew_composed (s : State) (v : View) (ns : List TileId) : s.noNew (s.composed v ns) :=
  (s.noNew_compositorEvent v ns).trans (State.noNew_driveReact _)

theorem State.noNew_listEvent {f : State → State} (h : HandsOnly f) (s : State) : s.noNew (s.listEvent f) := by
  unfold State.listEvent
  split
  · exact State.noNew_handsOnly h s
  · exact (State.noNew_listChange h s).trans (State.noNew_driveReact _)

/-! ### The sounder -/

theorem State.onTicks_pos {s : State} (h : s.tonesOk = true) (e : ToneId) : 1 ≤ s.tones[e].onTicks := by
  simp only [State.tonesOk, Vector.all_toList, Vector.all_eq_true] at h
  have := h e e.isLt
  simp only [ToneEntry.ok, Bool.and_eq_true, decide_eq_true_eq] at this
  exact this.1.1.2.1

/-- A change of the pattern and the chime queue alone, to a pattern whose period is not at its end. -/
theorem State.noNew_of_pattern {s t : State} (h : t = { s with pattern := t.pattern, chimes := t.chimes })
    (hp : s.tonesOk = true → t.periodDue = true → s.periodDue = true) : s.noNew t := by
  refine State.noNew_of fun ⟨ht, _⟩ => ⟨by rw [h], by rw [h], by rw [h], by rw [h], by rw [h], by rw [h], by rw [h], fun e he => ?_,
    Or.inl (by rw [h]), hp ht, fun p => ?_⟩
  · rwa [State.completionDue_of_engines (s := s) (by rw [h])] at he
  · rw [h]
    exact PortUnit.noNew_refl _

theorem State.on_not_due {n : Nat} (h : 1 ≤ n) {t : State} {src : SoundSource} {e : ToneId} {k : Nat}
    (hp : t.pattern = some ⟨src, e, .on n, k⟩) : t.periodDue = false := by
  obtain ⟨m, rfl⟩ : ∃ m, n = m + 1 := ⟨n - 1, by omega⟩
  unfold State.periodDue
  rw [hp]
  rfl

theorem State.noNew_chooseSource (s : State) : s.noNew s.chooseSource := by
  refine State.noNew_of_pattern s.chooseSource_frame fun ht hd => ?_
  have start : ∀ (u : State) (src : SoundSource) (e : ToneId), u.tones = s.tones →
      (u.startPattern src e).periodDue = false := by
    intro u src e hu
    exact State.on_not_due (n := u.tones[e].onTicks) (by rw [hu]; exact State.onTicks_pos ht e) rfl
  revert hd
  unfold State.chooseSource
  split
  · simp [State.periodDue]
  · split
    · simp [start s _ _ rfl]
    · split_ifs
      · exact id
      · simp [start s _ _ rfl]
      · simp [start { s with chimes := s.chimes.tail } _ _ rfl]
      · simp [start s _ _ rfl]

theorem State.noNew_heardSince (s b : State) : s.noNew (b.heardSince s) := by
  unfold State.heardSince
  split
  · exact s.noNew_refl
  · exact s.noNew_chooseSource

/-! ### A due event taken is no longer due -/

/-- What is due in `t` is due in `s`, and `d` is not. -/
def State.sheds (d : Due) (s t : State) : Prop := s.noNew t ∧ (s.sound → t.isDue d = false)

/-- First a change that takes `d` away, then what makes no event due. -/
theorem State.sheds.then {d : Due} {s t u : State} (h : State.sheds d s t) (hn : t.noNew u) :
    State.sheds d s u := by
  refine ⟨h.1.trans hn, fun hs => ?_⟩
  by_contra hc
  rw [Bool.not_eq_false] at hc
  have := (hn (hs.of_eq (h.1 hs).2.1 (h.1 hs).2.2)).1 d hc
  rw [h.2 hs] at this
  exact absurd this (by simp)

theorem State.noNew.sheds {d : Due} {s t : State} (h : s.noNew t) (hd : t.isDue d = false) : State.sheds d s t :=
  ⟨h, fun _ => hd⟩

/-- A change of the rail, to a state whose timer is not at its end. -/
theorem State.sheds_setRail (s : State) (d : Due) (hd : d = .rise ∨ d = .hold ∨ d = .fall ∨ d = .retry)
    {r : RailState} (hr : r.atEnd = false) : State.sheds d s (s.setRail r) := by
  refine (s.noNew_setRail hr).sheds ?_
  have key : ∀ x : RailState, x.atEnd = true → r ≠ x := by
    rintro x hx rfl
    rw [hr] at hx
    simp at hx
  rcases hd with rfl | rfl | rfl | rfl <;> exact decide_eq_false (key _ rfl)

/-- A change of other fields, such as the keys or the time, that makes nothing due. -/
theorem State.noNew_of_due {s t : State} (h : ∀ d, t.isDue d = true → s.isDue d = true) (ht : t.tones = s.tones)
    (hh : t.rail = s.rail) : s.noNew t := fun _ => ⟨h, ht, by rw [hh]⟩

theorem State.sheds_completion (e : EngineId) {s : State} (h : s.isDue (.completion e) = true) :
    State.sheds (.completion e) s (s.completeJob e) := by
  obtain ⟨j, hj, hf⟩ : ∃ j, s.engines[e] = some j ∧ j.frames = 0 := by
    change (match s.engines[e] with | some j => decide (j.frames = 0) | none => false) = true at h
    cases hj : s.engines[e] with
    | none =>
      rw [hj] at h
      exact absurd h (by simp)
    | some j =>
      rw [hj] at h
      exact ⟨j, rfl, of_decide_eq_true h⟩
  have hc : s.completeJob e = s.finishJob e j := by
    unfold State.completeJob
    rw [hj]
    exact if_pos hf
  rw [hc]
  unfold State.finishJob
  simp only
  set t : State := { s with
    engines := s.engines.set e none
    panel := s.panel.set j.tile (known j.snapshot)
    tiles := s.tiles.set j.tile ((s.tiles[j.tile].counted j.waveform).completed s.now
      (tileStale s.view (s.panel.set j.tile (known j.snapshot)) j.tile)) }
  have ht : State.sheds (.completion e) s t := by
    refine State.noNew.sheds (State.noNew_of fun _ => ⟨rfl, rfl, rfl, rfl, rfl, rfl, rfl, fun d hd => ?_,
      Or.inl rfl, id, fun _ => PortUnit.noNew_refl _⟩) (by simp [t, State.isDue, State.completionDue])
    by_cases hde : e = d
    · subst hde
      simp [t, State.completionDue] at hd
    · have hd' : (e : Nat) ≠ d := fun h => hde (Fin.ext h)
      simpa [t, State.completionDue, hd'] using hd
  refine (ht.then ?_).then (State.noNew_driveReact _)
  split
  · exact t.noNew_endWaits _ _
  · exact t.noNew_refl

theorem handsOnly_raisePortLost (p : PortId) : HandsOnly (State.raisePortLost p) := handsOnly_raise _ _ _

theorem handsOnly_raiseDriveFault : HandsOnly State.raiseDriveFault := handsOnly_raise _ _ _

theorem State.sheds_rise {s : State} (h : s.isDue .rise = true) : State.sheds .rise s s.expireRise := by
  unfold State.expireRise
  rw [of_decide_eq_true h]
  simp only
  have ht : State.sheds .rise s ((s.setAttempts (s.rail.attempts + 1)).setRail
      (.fault (if s.rail.attempts + 1 < 3 then some 320 else none))) := by
    refine State.noNew.sheds ((s.noNew_setAttempts _).trans (State.noNew_setRail _ ?_)) (by simp [State.isDue])
    split <;> rfl
  split
  · exact ht.then (State.noNew_listEvent handsOnly_raiseDriveFault _)
  · exact ht

theorem State.sheds_hold {s : State} (h : s.isDue .hold = true) : State.sheds .hold s s.expireHold := by
  unfold State.expireHold
  rw [of_decide_eq_true h]
  exact s.sheds_setRail _ (by simp) rfl

theorem State.sheds_fall {s : State} (h : s.isDue .fall = true) : State.sheds .fall s s.expireFall := by
  unfold State.expireFall
  rw [of_decide_eq_true h]
  exact (s.sheds_setRail .fall (by simp) rfl).then (State.noNew_driveReact _)

theorem State.sheds_retry {s : State} (h : s.isDue .retry = true) : State.sheds .retry s s.expireRetry := by
  unfold State.expireRetry
  rw [of_decide_eq_true h]
  refine ⟨s.noNew_enterRising, fun _ => decide_eq_false fun hc => ?_⟩
  have := s.risenTo_enterRising
  change s.enterRising.rail.state = _ at hc
  unfold State.risenTo at this
  split at this
  · rw [this.1] at hc
    simp at hc
  · rw [this] at hc
    simp at hc

/-- A pattern that has ended, by itself or with its chime. -/
theorem State.sheds_endedPattern {s t : State} (h : t = { s with pattern := none, chimes := t.chimes }) :
    State.sheds .period s t := by
  have hp : t.periodDue = false := by
    rw [h]
    rfl
  have he : t = { s with pattern := t.pattern, chimes := t.chimes } := by
    have hn : t.pattern = none := by rw [h]
    rw [hn]
    exact h
  exact (State.noNew_of_pattern he fun _ hd => absurd hd (by rw [hp]; simp)).sheds hp

theorem State.sheds_setPattern {s : State} (q : Pattern)
    (h : s.sound → (s.setPattern q).periodDue = false) : State.sheds .period s (s.setPattern q) :=
  ⟨fun hs => State.noNew_of_pattern rfl (fun _ hd => absurd hd (by rw [h hs]; simp)) hs, h⟩

theorem State.sheds_endPattern (s : State) (q : Pattern) : State.sheds .period s (s.endPattern q) := by
  unfold State.endPattern
  split
  · exact State.sheds_setPattern _ fun _ => rfl
  · next src code _ =>
    exact (((State.sheds_endedPattern (s := s) (t := { s with pattern := none }) rfl).then
      (State.noNew_listChange (handsOnly_silenceEnded src code) _)).then
      (State.noNew_driveReact _)).then (State.noNew_chooseSource _)
  · exact (State.sheds_endedPattern (s := s) (t := s.dropChime) rfl).then (State.noNew_chooseSource _)

theorem State.sheds_period {s : State} (h : s.isDue .period = true) : State.sheds .period s s.endPeriod := by
  have on : ∀ (pt : Pattern) (src : SoundSource) (k : Nat), s.sound →
      (s.setPattern ⟨src, pt.entry, .on s.tones[pt.entry].onTicks, k⟩).periodDue = false :=
    fun pt _ _ hs => State.on_not_due (State.onTicks_pos hs.1 pt.entry) rfl
  simp only [State.isDue, State.periodDue] at h
  unfold State.endPeriod
  split at h
  · next src e k hp =>
    rw [hp]
    simp only
    split_ifs with ho hr
    · refine State.sheds_setPattern _ fun _ => ?_
      obtain ⟨m, hm⟩ : ∃ m, s.tones[e].offTicks = m + 1 := ⟨s.tones[e].offTicks - 1, by omega⟩
      unfold State.periodDue State.setPattern
      rw [hm]
      rfl
    · exact s.sheds_endPattern _
    · exact State.sheds_setPattern _ (on ⟨src, e, .on 0, k⟩ _ _)
  · next src e k hp =>
    rw [hp]
    simp only
    split_ifs with hr
    · exact s.sheds_endPattern _
    · exact State.sheds_setPattern _ (on ⟨src, e, .off 0, k⟩ _ _)
  · simp at h

/-! ### Keys -/

theorem handsOnly_acknowledgeFirst : HandsOnly State.acknowledgeFirst := by
  have h : ∀ s : State, ∃ g, HandsOnly g ∧ s.acknowledgeFirst = g s := by
    intro s
    unfold State.acknowledgeFirst
    split
    · exact ⟨_, handsOnly_id, rfl⟩
    · exact ⟨_, (handsOnly_acknowledge _ _ _).comp (handsOnly_checkOverflow _), rfl⟩
  refine ⟨fun s => ?_, fun s => ?_⟩
  · obtain ⟨g, hg, e⟩ := h s
    rw [e]
    exact hg.1 s
  · obtain ⟨g, hg, e⟩ := h s
    rw [e]
    exact hg.2 s

theorem State.noNew_of_keys {s t : State} (h : t = { s with keys := t.keys })
    (hk : (t.keys.ack.pressDue = true → s.keys.ack.pressDue = true) ∧
      (t.keys.ack.releaseDue = true → s.keys.ack.releaseDue = true) ∧
      (t.keys.holdDue = true → s.keys.holdDue = true) ∧
      (t.keys.silence.pressDue = true → s.keys.silence.pressDue = true) ∧
      (t.keys.silence.releaseDue = true → s.keys.silence.releaseDue = true) ∧
      (t.keys.test.pressDue = true → s.keys.test.pressDue = true) ∧
      (t.keys.test.releaseDue = true → s.keys.test.releaseDue = true)) : s.noNew t := by
  refine State.noNew_of_due (fun d hd => ?_) (by rw [h]) (by rw [h])
  obtain ⟨a, b, c, e, f, g, i⟩ := hk
  cases d
  case ackPress => exact a hd
  case ackRelease => exact b hd
  case ackHold => exact c hd
  case silencePress => exact e hd
  case silenceRelease => exact f hd
  case testPress => exact g hd
  case testRelease => exact i hd
  all_goals (rw [h] at hd; exact hd)

@[simp] theorem KeyRecord.take_pressDue (k : KeyRecord) : k.take.pressDue = false := by
  simp [KeyRecord.take, KeyRecord.pressDue]

@[simp] theorem KeyRecord.take_releaseDue (k : KeyRecord) : k.take.releaseDue = false := by
  simp [KeyRecord.take, KeyRecord.releaseDue]

theorem State.noNew_takeAck (s : State) : s.noNew s.takeAck :=
  State.noNew_of_keys rfl (by simp [State.takeAck])

theorem State.noNew_takeSilence (s : State) : s.noNew s.takeSilence :=
  State.noNew_of_keys rfl (by simp [State.takeSilence])

theorem State.sheds_ackPress {s : State} (h : s.isDue .ackPress = true) : State.sheds .ackPress s s.pressAck := by
  unfold State.pressAck
  simp only [State.isDue] at h
  rw [if_pos h]
  exact (s.noNew_takeAck.sheds (d := .ackPress) (KeyRecord.take_pressDue _)).then
    (State.noNew_listEvent handsOnly_acknowledgeFirst _)

theorem State.sheds_ackRelease {s : State} (h : s.isDue .ackRelease = true) :
    State.sheds .ackRelease s s.releaseAck := by
  unfold State.releaseAck
  simp only [State.isDue] at h
  rw [if_pos h]
  exact s.noNew_takeAck.sheds (KeyRecord.take_releaseDue _)

theorem State.sheds_ackHold {s : State} (h : s.isDue .ackHold = true) : State.sheds .ackHold s s.holdAck := by
  unfold State.holdAck
  simp only [State.isDue] at h
  rw [if_pos h]
  exact ((State.noNew_of_keys (s := s) (t := { s with keys := { s.keys with holdDue := false } }) rfl
    (by simp)).sheds rfl).then (State.noNew_listEvent handsOnly_acknowledgeEligible _)

theorem State.noNew_chimes (s : State) (c : List ToneId) : s.noNew { s with chimes := c } :=
  State.noNew_of_pattern rfl fun _ => id

theorem State.sheds_silencePress {s : State} (h : s.isDue .silencePress = true) :
    State.sheds .silencePress s s.pressSilence := by
  unfold State.pressSilence
  simp only [State.isDue] at h
  rw [if_pos h]
  exact ((((s.noNew_takeSilence.sheds (d := .silencePress) (KeyRecord.take_pressDue _)).then (State.noNew_chimes _ [])).then
    (State.noNew_listChange handsOnly_silenceAll _)).then (State.noNew_driveReact _)).then
    (State.noNew_chooseSource _)

theorem State.sheds_silenceRelease {s : State} (h : s.isDue .silenceRelease = true) :
    State.sheds .silenceRelease s s.releaseSilence := by
  unfold State.releaseSilence
  simp only [State.isDue] at h
  rw [if_pos h]
  exact s.noNew_takeSilence.sheds (KeyRecord.take_releaseDue _)

theorem State.noNew_overlayEvent (s : State) (v : View) : s.noNew (s.overlayEvent v) := s.noNew_composed _ _

theorem State.sheds_takeTest (d : Due) (hd : d = .testPress ∨ d = .testRelease) (s : State) :
    State.sheds d s s.takeTest := by
  have h : State.sheds d s { s with keys := { s.keys with test := s.keys.test.take } } := by
    refine (State.noNew_of_keys (s := s) rfl (by simp)).sheds ?_
    rcases hd with rfl | rfl
    · exact KeyRecord.take_pressDue _
    · exact KeyRecord.take_releaseDue _
  unfold State.takeTest State.testChange
  split
  · exact h
  · exact h.then (State.noNew_overlayEvent _ _)

theorem State.sheds_testPress {s : State} (h : s.isDue .testPress = true) : State.sheds .testPress s s.pressTest := by
  unfold State.pressTest
  simp only [State.isDue] at h
  rw [if_pos h]
  exact State.sheds_takeTest _ (by simp) s

theorem State.sheds_testRelease {s : State} (h : s.isDue .testRelease = true) :
    State.sheds .testRelease s s.releaseTest := by
  unfold State.releaseTest
  simp only [State.isDue] at h
  rw [if_pos h]
  exact State.sheds_takeTest _ (by simp) s

/-! ### Time, shelving, refresh -/

theorem State.sheds_blink {s : State} (h : s.isDue .blink = true) : State.sheds .blink s s.takeBlink := by
  unfold State.takeBlink
  simp only [State.isDue] at h
  rw [if_pos h]
  have hn : s.noNew { s with time := { s.time with blinkDue := false, phase := !s.time.phase } } :=
    State.noNew_of_due (fun d hd => by cases d <;> first | exact hd | simp [State.isDue] at hd) rfl rfl
  exact (hn.sheds rfl).then (State.noNew_composed _ _ _)

theorem State.sheds_shelving {s : State} (h : s.isDue .shelving = true) :
    State.sheds .shelving s s.expireShelving := by
  unfold State.expireShelving
  simp only [State.isDue] at h
  rw [if_pos h]
  have hn : s.noNew { s with shelvingDue := false } :=
    State.noNew_of_due (fun d hd => by cases d <;> first | exact hd | simp [State.isDue] at hd) rfl rfl
  exact (hn.sheds rfl).then (State.noNew_listEvent handsOnly_unshelveExpired _)

theorem State.noNew_tiles (s : State) (ts : Vector TileRec 40) : s.noNew { s with tiles := ts } :=
  State.noNew_of fun _ => ⟨rfl, rfl, rfl, rfl, rfl, rfl, rfl, fun _ => id, Or.inl rfl, id,
    fun _ => PortUnit.noNew_refl _⟩

theorem State.sheds_refresh {s : State} (h : s.isDue .refresh = true) :
    State.sheds .refresh s s.expireRefresh := by
  unfold State.expireRefresh
  simp only [State.isDue] at h
  rw [if_pos h]
  have hf : ({ s with refreshCount := 0 } : State).refreshDue = false := by
    simp [State.refreshDue]
  have hn : s.noNew { s with refreshCount := 0 } :=
    State.noNew_of_due (fun d hd => by
      cases d <;> first | exact hd | (rw [State.isDue, hf] at hd; simp at hd)) rfl rfl
  refine (hn.sheds (d := .refresh) hf).then ?_
  unfold State.markTiles
  exact (State.noNew_tiles { s with refreshCount := 0 } _).trans (State.noNew_driveReact _)

/-! ### Port Units -/

theorem PortUnit.noNew_lose (u : PortUnit) : u.noNew u.lose :=
  ⟨fun h => by simp [PortUnit.lossDue, PortUnit.lose] at h,
    fun h => by simp [PortUnit.timeoutDue, PortUnit.lose] at h⟩

theorem State.noNew_releaseRole (s : State) (p : PortId) : s.noNew (s.releaseRole p) := by
  have flag : ∀ (u : State) (x : Option PortId) (b : Bool), u.noNew { u with supervisor := x, remoteTest := b } :=
    fun u x b => State.noNew_of fun _ => ⟨rfl, rfl, rfl, rfl, rfl, rfl, rfl, fun _ => id, Or.inl rfl, id,
      fun _ => PortUnit.noNew_refl _⟩
  unfold State.releaseRole
  split
  · unfold State.setRemoteTest State.testChange
    split
    · exact flag s none false
    · exact (flag s none false).trans (State.noNew_overlayEvent _ _)
  · exact s.noNew_refl

theorem State.noNew_closeWindows (s : State) (is : List WindowId) : s.noNew (s.closeWindows is) := by
  unfold State.closeWindows
  split
  · exact s.noNew_refl
  refine State.noNew.trans (t := { s with windows := is.foldl (fun ws (i : WindowId) => ws.set i none) s.windows }) ?_
    ((State.noNew_endWaits _ _ _).trans (State.noNew_composed _ _ _))
  exact State.noNew_of fun _ => ⟨rfl, rfl, rfl, rfl, rfl, rfl, rfl, fun _ => id, Or.inl rfl, id,
    fun _ => PortUnit.noNew_refl _⟩

theorem State.noNew_losePort (s : State) (p : PortId) : (s.modifyPort p PortUnit.lose).noNew (s.losePort p) := by
  have ho : ∀ c : Bool, HandsOnly fun t => (if c then t.clearPort p else t).raisePortLost p := by
    intro c
    cases c
    · exact handsOnly_raisePortLost p
    · exact (handsOnly_clearPort p).comp (handsOnly_raisePortLost p)
  unfold State.losePort
  refine ((State.noNew_releaseRole _ p).trans ?_).trans (State.noNew_listEvent (ho _) _)
  split
  · exact State.noNew_closeWindows _ _
  · exact State.noNew_refl _

theorem State.sheds_loss (p : PortId) {s : State} (h : s.isDue (.loss p) = true) :
    State.sheds (.loss p) s (s.loseIfDue p) := by
  unfold State.loseIfDue
  simp only [State.isDue] at h
  rw [if_pos h]
  refine ((s.noNew_modifyPort p PortUnit.noNew_lose).sheds ?_).then (s.noNew_losePort p)
  simp [State.isDue, PortUnit.lossDue, PortUnit.lose]

theorem State.sheds_waitEnd (p : PortId) {s : State} (h : s.isDue (.waitEnd p) = true) :
    State.sheds (.waitEnd p) s (s.timeOutWait p) := by
  unfold State.timeOutWait
  simp only [State.isDue] at h
  rw [if_pos h]
  refine (s.noNew_modifyPort p (PortUnit.noNew_endWait .timeout)).sheds ?_
  simp only [State.isDue, Fin.getElem_fin, State.modifyPort_port_self, PortUnit.endWait]
  split
  · next hw => simp [PortUnit.timeoutDue, hw]
  · simp [PortUnit.timeoutDue, PortUnit.answer]

/-! ### Every due event -/

/-- A due event that is taken is no longer due; it makes no other due, but the second event. -/
theorem State.sheds_act {s : State} {d : Due} (hd : s.isDue d = true) (hs : d ≠ .second) :
    State.sheds d s (d.act s) := by
  cases d with
  | completion e => exact State.sheds_completion e hd
  | rise => exact State.sheds_rise hd
  | hold => exact State.sheds_hold hd
  | fall => exact State.sheds_fall hd
  | retry => exact State.sheds_retry hd
  | period => exact State.sheds_period hd
  | ackPress => exact State.sheds_ackPress hd
  | ackRelease => exact State.sheds_ackRelease hd
  | ackHold => exact State.sheds_ackHold hd
  | silencePress => exact State.sheds_silencePress hd
  | silenceRelease => exact State.sheds_silenceRelease hd
  | testPress => exact State.sheds_testPress hd
  | testRelease => exact State.sheds_testRelease hd
  | second => exact absurd rfl hs
  | blink => exact State.sheds_blink hd
  | shelving => exact State.sheds_shelving hd
  | refresh => exact State.sheds_refresh hd
  | loss p => exact State.sheds_loss p hd
  | waitEnd p => exact State.sheds_waitEnd p hd

/-- The sounder's choice and the frames begun at the end of an event make none due. -/
theorem State.noNew_endOfEvent (s b : State) : s.noNew (b.heardSince s).finish :=
  (s.noNew_heardSince b).trans (State.noNew_finish _)

theorem State.sheds_whole {s : State} {d : Due} (hd : s.isDue d = true) (hs : d ≠ .second) :
    State.sheds d s (s.whole d.act) := (State.sheds_act hd hs).then (State.noNew_endOfEvent _ _)

/-- The events that a second event can make due. -/
def Due.ofSecond : Due → Bool
  | .shelving => true
  | .refresh => true
  | .loss _ => true
  | .waitEnd _ => true
  | _ => false

/-- A second event taken is no longer due, and can make the ten events of `Due.ofSecond` due. -/
theorem State.isDue_second {s : State} (h : s.time.secondDue = true) (hs : s.sound) {d : Due}
    (hd : (s.whole State.takeSecond).isDue d = true) :
    d ≠ .second ∧ (s.isDue d = true ∨ d.ofSecond = true) := by
  have ht : s.takeSecond.tones = s.tones ∧ s.takeSecond.rail = s.rail := by
    unfold State.takeSecond
    rw [if_pos h]
    exact ⟨rfl, rfl⟩
  have hd' := (State.noNew_endOfEvent s.takeSecond s (hs.of_eq ht.1 (by rw [ht.2]))).1 d hd
  unfold State.takeSecond at hd'
  rw [if_pos h] at hd'
  cases d <;> first
    | exact ⟨by simp, Or.inl hd'⟩
    | exact ⟨by simp, Or.inr rfl⟩
    | simp [State.isDue] at hd'

theorem State.sound_takeSecond {s : State} (hs : s.sound) : (s.whole State.takeSecond).sound := by
  have : s.takeSecond.sound := by
    unfold State.takeSecond
    split
    · exact hs
    · exact hs
  have h := State.noNew_endOfEvent s.takeSecond s this
  exact this.of_eq h.2.1 h.2.2

/-! ### The measure of what is left -/

theorem countP_lt {α : Type} {l : List α} {p q : α → Bool} (h : ∀ a, p a = true → q a = true) {a : α}
    (ha : a ∈ l) (hq : q a = true) (hp : p a = false) : l.countP p < l.countP q := by
  induction l with
  | nil => simp at ha
  | cons b l ih =>
    have hle : l.countP p ≤ l.countP q := List.countP_mono_left fun x _ => h x
    rw [List.countP_cons, List.countP_cons]
    rcases List.mem_cons.mp ha with rfl | hm
    · rw [if_neg (by simp [hp]), if_pos hq]
      omega
    · have := ih hm
      have : (if p b = true then 1 else 0) ≤ if q b = true then 1 else 0 := by
        split_ifs with h1 h2
        · exact le_refl _
        · exact absurd (h b h1) h2
        · exact Nat.zero_le _
        · exact le_refl _
      omega

theorem countP_or_le {α : Type} (l : List α) (p q : α → Bool) :
    l.countP (fun a => p a || q a) ≤ l.countP p + l.countP q := by
  induction l with
  | nil => simp
  | cons a l ih =>
    simp only [List.countP_cons]
    cases p a <;> cases q a <;> simp <;> omega

/-- What is due, and ten more while a second event is. -/
def State.left (s : State) : Nat := Due.all.countP s.isDue + if s.time.secondDue then 10 else 0

theorem Due.mem_all (d : Due) : d ∈ Due.all := by
  cases d with
  | completion e => fin_cases e <;> decide
  | loss p => fin_cases p <;> decide
  | waitEnd p => fin_cases p <;> decide
  | _ => decide

theorem State.left_le (s : State) : s.left ≤ 38 := by
  have : Due.all.countP s.isDue ≤ 28 := List.countP_le_length
  unfold State.left
  split <;> omega

/-- A due event taken leaves fewer. -/
theorem State.left_lt {s : State} (hs : s.sound) {d : Due} (hd : s.isDue d = true) :
    (s.whole d.act).left < s.left ∧ (s.whole d.act).sound := by
  by_cases h2 : d = .second
  · subst h2
    have h : s.time.secondDue = true := hd
    refine ⟨?_, s.sound_takeSecond hs⟩
    have hn : (s.whole State.takeSecond).time.secondDue = false := by
      by_contra hc
      exact (State.isDue_second h hs (d := .second) (by simpa [State.isDue] using hc)).1 rfl
    have h1 : Due.all.countP (s.whole State.takeSecond).isDue ≤
        Due.all.countP (fun d => (decide (d ≠ .second) && s.isDue d) || d.ofSecond) := by
      refine List.countP_mono_left fun x _ hx => ?_
      obtain ⟨a, b⟩ := State.isDue_second h hs hx
      rcases b with b | b <;> simp [a, b]
    have h3 := countP_or_le Due.all (fun d => decide (d ≠ .second) && s.isDue d) Due.ofSecond
    have h4 : Due.all.countP Due.ofSecond = 10 := by decide
    have h5 : Due.all.countP (fun d => decide (d ≠ .second) && s.isDue d) < Due.all.countP s.isDue :=
      countP_lt (fun a ha => by simp_all) (Due.mem_all .second) hd (by simp)
    unfold State.left
    simp only [Due.act, hn, h] at *
    simp
    omega
  · obtain ⟨hn, hf⟩ := State.sheds_whole hd h2
    obtain ⟨a, b, c⟩ := hn hs
    refine ⟨?_, hs.of_eq b c⟩
    have h5 := countP_lt a (Due.mem_all d) hd (hf hs)
    have h6 : (s.whole d.act).time.secondDue = true → s.time.secondDue = true := a .second
    unfold State.left
    split_ifs with h7 h8
    · omega
    · exact absurd (h6 h7) h8
    · omega
    · omega

/-! ### settle -/

theorem State.mem_dueNow {s : State} {d : Due} : d ∈ s.dueNow ↔ s.isDue d = true := by
  simp [State.dueNow, Due.mem_all]

/-- The row of a due event is that event, taken whole. -/
theorem exec_dueRow (d : Due) (s : State) : exec d.row s = .next (s.whole d.act) := by cases d <;> rfl

/-- One of the due events is taken, with a choice counted where there are several. -/
theorem State.takeOneDue_cases {s : State} (h : s.dueNow ≠ []) : ∃ d ∈ s.dueNow,
    s.takeOneDue = ({ s with choices := if s.dueNow.length = 1 then s.choices else s.choices + 1 } :
      State).whole d.act := by
  unfold State.takeOneDue
  split
  · next he => exact absurd he h
  · next d he =>
    refine ⟨d, by simp [he], ?_⟩
    rw [he]
    rfl
  · next d rest hne he =>
    have hl : rest ≠ [] := by
      rintro rfl
      exact hne rfl
    have hm : (d :: rest).getD (Config.freeOrder s.choices % (rest.length + 1)) d ∈ d :: rest := by
      have hlt : Config.freeOrder s.choices % (rest.length + 1) < (d :: rest).length :=
        Nat.mod_lt _ (Nat.succ_pos _)
      rw [List.getD_eq_getElem _ _ hlt]
      exact List.getElem_mem hlt
    refine ⟨_, by rw [he]; exact hm, ?_⟩
    rw [he, if_neg (by simpa using hl)]

theorem State.sound_of_laws {s : State} (ht : s.tonesOk = true) (hr : s.rail.ok = true) : s.sound := by
  refine ⟨ht, ?_⟩
  simp only [Rail.ok, Bool.and_eq_true, decide_eq_true_eq] at hr
  exact hr.1.1

theorem State.takeAllDue_done (n : Nat) {s : State} (hs : s.sound) (hn : s.left ≤ n) :
    ∃ ds, State.takesDue ds s (s.takeAllDue n) ∧ (s.takeAllDue n).dueNow = [] := by
  induction n generalizing s with
  | zero =>
    refine ⟨[], rfl, ?_⟩
    have : Due.all.countP s.isDue = 0 := by
      unfold State.left at hn
      omega
    rw [State.takeAllDue, State.dueNow, List.filter_eq_nil_iff]
    exact List.countP_eq_zero.mp this
  | succ n ih =>
    unfold State.takeAllDue
    split
    · next h => exact ⟨[], rfl, h⟩
    · next h =>
      obtain ⟨d, hd, e⟩ := State.takeOneDue_cases h
      set u : State := { s with choices := if s.dueNow.length = 1 then s.choices else s.choices + 1 } with hu
      have hdu : u.isDue d = true := by
        have := State.mem_dueNow.mp hd
        cases d <;> exact this
      obtain ⟨hlt, hsn⟩ := State.left_lt (s := u) hs hdu
      have hl : u.left = s.left := by
        unfold State.left
        congr 1
      obtain ⟨ds, h1, h2⟩ := ih (s := s.takeOneDue) (by rwa [e]) (by rw [e]; omega)
      exact ⟨d :: ds, ⟨hd, s.takeOneDue, by rw [exec_dueRow, e], h1⟩, h2⟩

/-- Settling takes due events as their rows take them, and leaves none due (log 2). -/
theorem State.takesDue_settle {s : State} (hs : s.sound) :
    ∃ ds, State.takesDue ds s s.settle ∧ s.settle.dueNow = [] := State.takeAllDue_done 38 hs s.left_le

theorem State.settle_dueNow {s : State} (hs : s.sound) : s.settle.dueNow = [] :=
  (State.takesDue_settle hs).elim fun _ h => h.2

/-- A property that every due event taken keeps, and that does not rest on the choices, is kept by settling. -/
theorem State.settle_induct {P : State → Prop} (hc : ∀ s n, P s → P { s with choices := n })
    (ha : ∀ s d, s.isDue d = true → P s → P (s.whole d.act)) {s : State} (h : P s) : P s.settle := by
  unfold State.settle
  generalize 38 = n
  induction n generalizing s with
  | zero => exact h
  | succ n ih =>
    unfold State.takeAllDue
    split
    · exact h
    · next hne =>
      obtain ⟨d, hd, e⟩ := State.takeOneDue_cases hne
      refine ih ?_
      rw [e]
      have hdu := State.mem_dueNow.mp hd
      refine ha _ d ?_ (hc _ _ h)
      cases d <;> exact hdu

end Sys2Proof.Machine
end

