-- ==== Sys2Proof/Tests/Slice0.lean ====
section
/-!
SUPPORT. The model's own tests: the checks of admission refuse ill-formed terms; small steps from the spec's
rules and worked sequences; and, for each statement with hypotheses, states and operands that meet them.
-/

namespace Sys2Proof.Tests
open Sys2Proof.Machine

set_option Elab.async false

/-! ### States to test on -/

def portOn : PortUnit := { portReset with state := .attached }

/-- Every tile SETTLED at background, the rail OFF, P0 the supervisor, P1 a field port. -/
def quiet : State := { State.resetValues with
  tiles := Vector.replicate 40 ⟨.settled, 0, false⟩
  panel := Vector.replicate 40 (known (Vector.replicate 8 background))
  ports := #v[portOn, portOn, portReset, portReset]
  supervisor := some 0 }

/-- The same with the rail ON in its hold, and power-good asserted. -/
def lit : State := { quiet with
  rail := ⟨.on (some 192), 0, 3⟩
  powerGood := true }

/-- What a command makes of a state. -/
def after (c : Instr) (s : State) : State :=
  match exec c s with
  | .next t => t
  | _ => s

/-- A window of P0 over row 2, columns 0 to 9, level 1. -/
def strip : Window := ⟨0, 2, 0, 1, 10, 1, true, 0, List.replicate 10 background, none⟩

/-- `lit` with that window as W0, and a copy of it, deferred, at level 2 as W1. -/
def windowed : State := { lit with
  windows := (lit.windows.set 0 (some strip)).set 1
    (some { strip with
      level := 2
      published := some strip.working }) }

/-- A CAUTION record of P1, code 21. -/
def record21 : Alert :=
  ⟨.port 1, 21, 2, 40, .caution, some 5, none, [70, 76, 85, 69], .activeUnack, false, none, 1, ⟨0, 0⟩⟩

/-- `lit` with that record. -/
def alarmed : State := { lit with alerts := [record21] }

/-- 32 records of P0: the port records at their limit. -/
def crowd : List Alert :=
  (List.range 32).map fun n => { record21 with
    source := .port 0
    code := byteOf n }

def crowded : State := { lit with alerts := crowd }

/-! ### The checks of admission (R181, R205, R206) -/

/-- One ill-formed request for each check of a length or a range. -/
def illFormed : List Instr :=
  [.attach 0 0 2 0 0, .attach 0 0 0 61 0, .attach 0 0 0 0 2, .status 0 0 [0],
   .setFilter 0 0 4 0 0 0 0 0 0, .setFilter 0 0 0 2 0 0 0 0 0, .setFilter 0 0 0 0 3 0 0 0 0,
   .setNotices 0 0 2, .waitSettled 0 0 16 1, .waitSettled 0 0 0 0, .waitSettled 0 0 0 61,
   .openWindow 0 0 8 0 1 1 0, .openWindow 0 0 0 40 1 1 0, .openWindow 0 0 0 0 0 1 0,
   .openWindow 0 0 0 0 9 1 0, .openWindow 0 0 0 0 1 0 0, .openWindow 0 0 0 0 1 41 0,
   .openWindow 0 0 0 0 1 1 4, .closeWindow 0 0 16, .moveWindow 0 0 16 0 0 0, .moveWindow 0 0 0 8 0 0,
   .moveWindow 0 0 0 0 40 0, .moveWindow 0 0 0 0 0 4, .setWindow 0 0 16 0 0 0, .setWindow 0 0 0 2 0 0]
  ++ [.setWindow 0 0 0 0 2 0, .setWindow 0 0 0 0 0 16, .writeCells 0 0 16 0 0 [65, 0],
   .writeCells 0 0 0 8 0 [65, 0], .writeCells 0 0 0 0 40 [65, 0], .writeCells 0 0 0 0 0 [65, 4],
   .writeCells 0 0 0 0 0 [], .writeCells 0 0 0 0 0 [65, 0, 65],
   .writeCells 0 0 0 0 0 (List.replicate 82 0), .fillCells 0 0 16 0 0 1 1 65 0,
   .fillCells 0 0 0 8 0 1 1 65 0, .fillCells 0 0 0 0 40 1 1 65 0, .fillCells 0 0 0 0 0 0 1 65 0,
   .fillCells 0 0 0 0 0 9 1 65 0, .fillCells 0 0 0 0 0 1 0 65 0, .fillCells 0 0 0 0 0 1 41 65 0,
   .fillCells 0 0 0 0 0 1 1 65 4, .readCells 0 0 16 0 0 1, .readCells 0 0 0 8 0 1,
   .readCells 0 0 0 0 40 1, .readCells 0 0 0 0 0 0, .readCells 0 0 0 0 0 41, .flush 0 0 16,
   .fullRefresh 0 0 2 0, .fullRefresh 0 0 0 16]
  ++ [.setRefreshPeriod 0 0 241, .setHold 0 0 0, .setHold 0 0 61,
   .raiseAlert 0 0 0 0 0 3 255 255 [], .raiseAlert 0 0 0 0 0 0 16 255 [],
   .raiseAlert 0 0 0 0 0 0 255 8 [], .raiseAlert 0 0 0 0 0 0 255 255 (List.replicate 33 65),
   .ackAlert 0 0 5 0, .ackAlert 0 0 4 6, .shelveAlert 0 0 5 0 1, .shelveAlert 0 0 4 6 1,
   .shelveAlert 0 0 0 0 0, .unshelveAlert 0 0 5 0, .unshelveAlert 0 0 4 6, .listAlerts 0 0 38,
   .setBanner 0 0 0, .setBanner 0 0 3, .setTone 0 0 8 0 0 0 0 0 1 0 0, .setTone 0 0 0 0 2 0 0 0 1 0 0,
   .setTone 0 0 0 0 0 0 2 0 1 0 0, .setTone 0 0 0 0 0 0 0 16 1 0 0, .setTone 0 0 0 0 0 0 0 0 0 0 0,
   .chime 0 0 0, .chime 0 0 8, .panelTest 0 0 2, .blank 0 0 2]

theorem test_wellFormed_refuses : illFormed.all (fun i => !i.wellFormed) = true := by decide +kernel

theorem test_wellFormed_accepts_bounds :
    [Instr.attach 0 0 1 60 1, .openWindow 0 0 7 39 8 40 3, .writeCells 0 0 15 7 39 (List.replicate 80 3),
     .raiseAlert 0 0 255 255 255 2 255 255 (List.replicate 32 255), .shelveAlert 0 0 4 5 65535,
     .listAlerts 0 0 37, .setTone 0 0 7 255 1 255 1 15 255 255 255].all Instr.wellFormed = true := by
  decide +kernel

/-! ### The machine -/

theorem test_reset_laws : State.reset.ok = true := by decide +kernel

theorem test_idle : step State.reset = .next State.reset := rfl

theorem test_powerOnReset : (after .powerOnReset lit).rail = ⟨.on none, 0, 3⟩ ∧
    (after .powerOnReset lit).tiles[(0 : TileId)].state = .driving ∧
    (after .powerOnReset quiet).rail = ⟨.rising 4, 0, 3⟩ := by decide +kernel

/-! ### Links (R172 to R175) -/

/-- The check of "123456789" by x^16 + x^12 + x^5 + 1, preset and complemented: as sent, 6E and then 90,
the known value of this check. -/
theorem test_crc : bytesOfBits (checkBits (bitsOfBytes [49, 50, 51, 52, 53, 54, 55, 56, 57])) = [0x6E, 0x90] := by
  decide +kernel

theorem test_stuff : stuff 0 [true, true, true, true, true, true, false] =
    [true, true, true, true, true, false, true, false] := by decide

theorem test_frameReceived : (after (.frameReceived 0 (lineOf (bodyOf 9 .status []))) quiet).ports[0].responses.map
    (fun r => (r.exec, r.tag, r.code, r.status)) = [(false, 9, 3, .ok)] := by decide +kernel

theorem test_frameReceived_bad : (after (.frameReceived 0 (lineOf [2, 9, 3])) quiet).ports[0].flags.rxError = true ∧
    (after (.frameReceived 0 (lineOf (bodyOf 9 .setHold [60]))) quiet).rail.holdSetting = 60 := by decide +kernel

def buffered : State := quiet.modifyPort 0 fun u => { u with rx := [bodyOf 5 .setHold [7]] }

theorem test_takeRequest : (after (.takeRequest 0) buffered).rail.holdSetting = 7 ∧
    (after (.takeRequest 0) buffered).ports[0].rx = [] := by decide +kernel

def answered : State := quiet.modifyPort 0 fun u => { u with responses := [⟨true, 1, 34, .ok, []⟩] }

theorem test_transmission : (after (.transmissionStart 0) answered).ports[0].tx = .response ∧
    (after (.transmissionEnd 0) (after (.transmissionStart 0) answered)).ports[0] = { portOn with lineEnd := .flag } := by
  decide +kernel

/-! ### Ports -/

def lastOf (p : PortId) (s : State) : Option (Status × List Byte) :=
  s.ports[p].responses.getLast?.map fun r => (r.status, r.results)

theorem test_attach : lastOf 2 (after (.attach 2 1 0 5 1) quiet) = some (.ok, [0]) ∧
    (after (.attach 2 1 0 5 1) quiet).ports[2].keepaliveCount = some 0 ∧
    lastOf 2 (after (.attach 2 1 1 5 1) quiet) = some (.roleTaken, []) := by decide +kernel

theorem test_detach : (after (.detach 0 1) windowed).windows[(0 : WindowId)] = none ∧
    (after (.detach 0 1) windowed).supervisor = none := by decide +kernel

theorem test_status : lastOf 0 (after (.status 0 1 []) lit) =
    some (.ok, [1, 1, 0, 0, 0, 0, 4, 0, 0, 0, 2, 0, 0, 0, 0, 0, 0, 0]) := by decide +kernel

theorem test_resetPort : (after (.resetPort 1 1) alarmed).alerts.map Alert.state = [.clearedUnack ⟨0, 0⟩] ∧
    (after (.resetPort 1 1) alarmed).ports[1].state = .attached := by decide +kernel

theorem test_setFilter : (after (.setFilter 1 1 3 1 1 0 0 40 255) quiet).ports[1].filters[3] =
    ⟨true, .cls, 0, 0, 40, 255⟩ := by decide +kernel

theorem test_setNotices : (after (.setNotices 1 1 0) quiet).ports[1].noticesEnabled = false := by decide +kernel

theorem test_waitSettled : lastOf 0 (after (.waitSettled 0 1 0 5) windowed) = some (.ok, []) ∧
    lastOf 0 (after (.waitSettled 0 1 9 5) windowed) = some (.noWindow, []) := by decide +kernel

def waiting : State := windowed.modifyPort 1 fun u => { u with wait := some ⟨0, 5, 5, 7⟩ }

theorem test_waitTimeout : lastOf 1 (after (.waitTimeout 1) waiting) = some (.timeout, []) := by decide +kernel

def losing : State := windowed.modifyPort 0 fun u => { u with
  keepalive := 2
  keepaliveCount := some 2
  lossAction := .close }

theorem test_portLoss : (after (.portLoss 0) losing).ports[0].state = .lost ∧
    (after (.portLoss 0) losing).windows[(0 : WindowId)] = none ∧
    (after (.portLoss 0) losing).alerts.map Alert.code = [0] := by decide +kernel

/-- A loss that ends the remote test and raises PORT_LOST has the source chosen once, after both: the alert
sounds, and the chime that waits keeps its place (R139, R187). -/
theorem test_portLoss_choosesOnce : let s : State := { losing with
      remoteTest := true
      chimes := [1]
      pattern := some ⟨.test, 4, .on 9, 0⟩
      rail := ⟨.falling 1, 0, 3⟩ }
    (after (.portLoss 0) s).chimes = [1] ∧
    (after (.portLoss 0) s).pattern = some ⟨.alert .system 0, 2, .on 32, 0⟩ := by decide +kernel

/-! ### Windows -/

theorem test_openWindow : lastOf 1 (after (.openWindow 1 1 4 10 2 20 2) windowed) = some (.ok, [2]) ∧
    (after (.openWindow 1 1 4 10 2 20 2) windowed).freeCells = 1024 - 10 - 20 - 40 ∧
    lastOf 1 (after (.openWindow 1 1 2 9 1 1 1) windowed) = some (.overlap, []) := by decide +kernel

theorem test_closeWindow : (after (.closeWindow 0 1 1) windowed).freeCells = 1014 ∧
    lastOf 1 (after (.closeWindow 1 1 1) windowed) = some (.notOwner, []) := by decide +kernel

theorem test_moveWindow : (after (.moveWindow 0 1 0 7 30 3) windowed).windows[(0 : WindowId)] =
    some { strip with
      row := 7
      col := 30
      level := 3 } ∧
    lastOf 0 (after (.moveWindow 0 1 0 7 31 3) windowed) = some (.outOfPanel, []) := by decide +kernel

theorem test_setWindow : (after (.setWindow 0 1 0 0 1 3) windowed).windows[(0 : WindowId)] =
    some { strip with
      visible := false
      writers := 2
      published := some strip.working } := by decide +kernel

/-- 12.1: a write of a glyph that differs makes its tile PENDING, and a free engine takes it. -/
theorem test_writeCells : (after (.writeCells 0 1 0 0 9 [66, 0]) { windowed with windows := windowed.windows.set 1 none }
    ).tiles[(11 : TileId)].state = .driving ∧
    (after (.writeCells 0 1 0 0 9 [66, 0]) windowed).tiles = windowed.tiles := by decide +kernel

theorem test_fillCells : ((after (.fillCells 0 1 1 0 2 1 8 33 2) windowed).windows[(1 : WindowId)].map fun w =>
    (w.working.map CellValue.glyph, w.published)) =
      some ([32, 32, 33, 33, 33, 33, 33, 33, 33, 33], some strip.working) := by decide +kernel

theorem test_readCells : lastOf 1 (after (.readCells 1 1 0 0 8 2) windowed) = some (.ok, [32, 0, 32, 0]) ∧
    lastOf 1 (after (.readCells 1 1 0 0 9 2) windowed) = some (.outOfWindow, []) := by decide +kernel

theorem test_flush : lastOf 1 (after (.flush 1 1 1) windowed) = some (.writeDenied, []) ∧
    lastOf 0 (after (.flush 0 1 1) windowed) = some (.ok, []) := by decide +kernel

/-! ### Drive and rail -/

/-- `lit` with T7 and T3 PENDING, T3 the later, and their engines free. -/
def stale : State := { lit with
  tiles := (lit.tiles.set 7 ⟨.pending ⟨5, 1⟩, 16, false⟩).set 3 ⟨.pending ⟨5, 2⟩, 2, false⟩ }

theorem test_jobStart : (after .jobStart stale).engines[(0 : EngineId)] =
    some ⟨7, .fullDrive, Vector.replicate 8 background, 24⟩ ∧
    (after .jobStart stale).rail.state = .on none := by decide +kernel

def driving : State := { lit with
  rail := ⟨.on none, 0, 3⟩
  tiles := lit.tiles.set 7 ⟨.driving, 4, false⟩
  engines := lit.engines.set 2 (some ⟨7, .partialDrive, Vector.replicate 8 background, 0⟩) }

theorem test_jobCompletion : (after (.jobCompletion 2) driving).tiles[(7 : TileId)] = ⟨.settled, 5, false⟩ ∧
    (after (.jobCompletion 2) driving).rail.state = .on (some 192) := by decide +kernel

def refreshing : State := { stale with
  refreshCount := 3600
  rail := ⟨.falling 1, 0, 3⟩ }

theorem test_fullRefreshExpiry : (after .fullRefreshExpiry refreshing).refreshCount = 0 ∧
    (after .fullRefreshExpiry refreshing).tiles.toList.countP TileRec.fullDue = 2 := by decide +kernel

theorem test_fullRefresh : (after (.fullRefresh 0 1 1 0) { windowed with rail := ⟨.falling 1, 0, 3⟩ }
    ).tiles.toList.countP TileRec.waiting = 2 := by decide +kernel

theorem test_setRefreshPeriod : (after (.setRefreshPeriod 0 1 240) refreshing).refreshPeriod = 240 ∧
    lastOf 1 (after (.setRefreshPeriod 1 1 240) refreshing) = some (.notPermitted, []) := by decide +kernel

theorem test_powerGood : (after .powerGoodAsserted { stale with
    rail := ⟨.rising 1, 2, 3⟩
    powerGood := false }).rail = ⟨.on none, 0, 3⟩ ∧
    (after .powerGoodLost driving).rail = ⟨.fault (some 320), 1, 3⟩ ∧
    (after .powerGoodLost driving).tiles[(7 : TileId)].state = .unknown ⟨0, 0⟩ ∧
    (after .powerGoodLost driving).alerts.map Alert.code = [4] := by decide +kernel

theorem test_riseTimerExpiry :
    (after .riseTimerExpiry { lit with rail := ⟨.rising 0, 2, 3⟩ }).rail = ⟨.fault none, 3, 3⟩ ∧
    (after .riseTimerExpiry { lit with rail := ⟨.rising 0, 0, 3⟩ }).alerts.map Alert.code = [4] := by decide +kernel

theorem test_railTimers :
    (after .holdTimerExpiry { lit with rail := ⟨.on (some 0), 0, 3⟩ }).rail.state = .falling 2 ∧
    (after .fallTimerExpiry { lit with rail := ⟨.falling 0, 0, 3⟩ }).rail.state = .off ∧
    (after .retryTimerExpiry { quiet with rail := ⟨.fault (some 0), 1, 3⟩ }).rail = ⟨.rising 4, 1, 3⟩ ∧
    (after .retryTimerExpiry { lit with rail := ⟨.fault (some 0), 1, 3⟩ }).rail = ⟨.on (some 192), 0, 3⟩ := by
  decide +kernel

theorem test_setHold : (after (.setHold 0 1 60) lit).rail.holdSetting = 60 := by decide +kernel

theorem test_clearDriveFault :
    (after (.clearDriveFault 0 1) { quiet with rail := ⟨.fault none, 3, 3⟩ }).rail = ⟨.off, 0, 3⟩ ∧
    (after (.clearDriveFault 0 1) { stale with
      rail := ⟨.fault none, 3, 3⟩
      powerGood := false }).rail = ⟨.rising 4, 0, 3⟩ := by decide +kernel

/-! ### Alerts -/

/-- 12.2: a raise at 2000:0 is answered OK with its position and state. -/
theorem test_raiseAlert : lastOf 1 (after (.raiseAlert 1 1 21 2 40 2 5 255 [70]) lit) = some (.ok, [0, 0]) ∧
    (after (.raiseAlert 1 1 21 2 40 2 5 255 [70]) lit).pattern = some ⟨.alert (.port 1) 21, 3, .on 16, 0⟩ ∧
    (after (.raiseAlert 1 1 21 2 40 2 5 255 [70]) lit).lamp 5 = .flash := by decide +kernel

/-- The position answered is the one the raise left, though the rise of the same event then removes the
acknowledged DRIVE_FAULT before it (log 23). -/
theorem test_raiseAlert_position : let s : State := { lit with
      rail := ⟨.off, 0, 3⟩
      alerts := [{ record21 with
        source := .system
        code := driveFaultCode
        state := .activeAck .key ⟨0, 0⟩ }] }
    lastOf 1 (after (.raiseAlert 1 1 21 2 40 2 5 255 [70]) s) = some (.ok, [1, 0]) ∧
    (after (.raiseAlert 1 1 21 2 40 2 5 255 [70]) s).alerts.length = 1 := by decide +kernel

theorem test_raiseAlert_full : lastOf 1 (after (.raiseAlert 1 1 21 2 40 2 5 255 [70]) { crowded with
    rail := ⟨.falling 1, 0, 3⟩ }) = some (.listFull, []) := by decide +kernel

theorem test_clearAlert : lastOf 1 (after (.clearAlert 1 1 21) alarmed) = some (.ok, [2]) ∧
    lastOf 1 (after (.clearAlert 1 1 22) alarmed) = some (.noAlert, []) := by decide +kernel

theorem test_ackAlert : lastOf 0 (after (.ackAlert 0 1 1 21) alarmed) = some (.ok, [1]) ∧
    (after (.ackAlert 0 1 1 21) alarmed).alerts.map Alert.state = [.activeAck (.port 0) ⟨0, 0⟩] := by decide +kernel

def expired : State := { alarmed with
  alerts := [{ record21 with shelved := some 0 }]
  shelvingDue := true }

theorem test_shelveAlert : (after (.shelveAlert 0 1 1 21 600) alarmed).alerts.map Alert.shelved = [some 600] ∧
    (after (.unshelveAlert 0 1 1 21) expired).alerts.map Alert.shelved = [none] := by decide +kernel

theorem test_shelvingExpiry : (after .shelvingExpiry expired).alerts.map Alert.shelved = [none] ∧
    (after .shelvingExpiry expired).shelvingDue = false := by decide +kernel

theorem test_listAlerts : lastOf 1 (after (.listAlerts 1 1 0) alarmed) = some (.ok,
    [1, 0, 1, 1, 21, 2, 40, 1, 0, 0, 5, 255, 1, 255, 0, 0, 0, 0, 0, 0, 0, 0, 0, 0, 0, 0, 0, 0, 4, 70, 76, 85, 69]) := by
  decide +kernel

theorem test_setBanner : (after (.setBanner 0 1 2) lit).bandHeight = 2 := by decide +kernel

/-! ### Sounder -/

def playing (src : SoundSource) (entry : ToneId) (phase : PatternPhase) (completed : Nat) : State := { alarmed with
  chimes := [1]
  tones := tonesReset.set 2 ⟨96, none, .together, 13, 32, 32, 1⟩
  pattern := some ⟨src, entry, phase, completed⟩ }

theorem test_periodEnd :
    (after .periodEnd (playing (.alert (.port 1) 21) 2 (.on 0) 0)).pattern = some ⟨.alert (.port 1) 21, 2, .off 32, 1⟩ ∧
    (after .periodEnd (playing (.alert (.port 1) 21) 2 (.off 0) 1)).alerts.map Alert.silenced = [true] ∧
    (after .periodEnd (playing .chime 1 (.on 0) 0)).chimes = [] := by decide +kernel

theorem test_setTone : (after (.setTone 0 1 7 64 1 96 1 15 1 0 0) lit).tones[(7 : ToneId)] =
    ⟨64, some 96, .alternate, 15, 1, 0, 0⟩ := by decide +kernel

theorem test_chime : (after (.chime 1 1 1) lit).pattern = some ⟨.chime, 1, .on 16, 0⟩ ∧
    lastOf 1 (after (.chime 1 1 2) lit) = some (.badValue, []) := by decide +kernel

/-! ### Keys and overlays -/

def pressed : State := { alarmed with keys :=
  { alarmed.keys with
    ack := ⟨false, true, 4⟩
    silence := ⟨false, true, 4⟩
    test := ⟨false, true, 4⟩ } }

theorem test_ackPress : (after .ackPress pressed).alerts.map Alert.state = [.activeAck .key ⟨0, 0⟩] ∧
    (after .ackPress pressed).keys.ack = ⟨true, true, 0⟩ := by decide +kernel

theorem test_ackHold : (after .ackHold { alarmed with keys := { alarmed.keys with holdDue := true } }
    ).alerts.map Alert.state = [.activeAck .key ⟨0, 0⟩] := by decide +kernel

/-- LIST_OVERFLOW is acknowledged with the rest, then cleared where 28 port records are left (R104, R111). -/
theorem test_ackHold_overflow : let s : State := { lit with
      alerts := crowd.take 28 ++ [{ record21 with state := .clearedUnack ⟨0, 0⟩ }, ⟨.system, listOverflowCode, 255, 255,
        .warning, some 15, none, listFullMessage, .activeUnack, false, none, 1, ⟨0, 0⟩⟩]
      keys := { lit.keys with holdDue := true } }
    s.alertsOk = true ∧ ((after .ackHold s).record .system listOverflowCode).isNone = true ∧
    (after .ackHold s).alerts.length = 28 := by decide +kernel

theorem test_silencePress : (after .silencePress pressed).alerts.map Alert.silenced = [true] ∧
    (after .silencePress pressed).pattern = none := by decide +kernel

theorem test_testPress : (after .testPress { pressed with rail := ⟨.falling 1, 0, 3⟩ }).pattern =
    some ⟨.test, 4, .on 32, 0⟩ ∧
    (after .testPress { pressed with rail := ⟨.falling 1, 0, 3⟩ }).lamp 3 = .on := by decide +kernel

def held : State := { lit with keys :=
  { ack := ⟨true, false, 4⟩
    silence := ⟨true, false, 4⟩
    test := ⟨true, false, 4⟩
    holdTicks := 127
    holdDue := false } }

theorem test_releases : (after .ackRelease held).keys.holdTicks = 0 ∧
    (after .silenceRelease held).keys.silence = ⟨false, false, 0⟩ ∧
    (after .testRelease { held with remoteTest := true }).keys.test = ⟨false, false, 0⟩ := by decide +kernel

theorem test_panelTest : (after (.panelTest 0 1 1) { lit with rail := ⟨.falling 1, 0, 3⟩ }
    ).tiles.toList.countP TileRec.waiting = 40 := by decide +kernel

theorem test_blank : (after (.blank 0 1 1) lit).blank = true ∧ (after (.blank 0 1 1) lit).tiles = lit.tiles := by
  decide +kernel

/-! ### Time -/

theorem test_tickEvent : (after (.tickEvent true false false) { lit with time := ⟨63, 9, false, false, false⟩ }).time =
    ⟨0, 10, false, true, true⟩ ∧ (after (.tickEvent true false false) lit).rail.state = .on (some 191) ∧
    (after (.tickEvent true false false) lit).keys.ack = ⟨false, true, 1⟩ := by decide +kernel

def second : State := { losing with time := ⟨0, 10, false, true, true⟩ }

theorem test_secondEvent : (after .secondEvent second).refreshCount = 1 ∧
    (after .secondEvent second).ports[0].keepaliveCount = some 3 := by decide +kernel

theorem test_blinkEvent : (after .blinkEvent second).time = ⟨0, 10, true, true, false⟩ := by decide +kernel

theorem test_setTime : (after (.setTime 0 1 5000) lit).time = ⟨0, 5000, true, false, false⟩ ∧
    lastOf 1 (after (.setTime 1 1 5000) lit) = some (.notPermitted, []) := by decide +kernel

/-! ### States and operands that meet the hypotheses of the statements, clause by clause -/

theorem test_meets_StepTakesFrontCommand : State.reset.pending = [] := rfl

theorem test_meets_PowerOnReset : quiet.powerGood = false ∧ lit.powerGood = true := ⟨rfl, rfl⟩

theorem test_meets_FramedBodyIsReceived : ([1, 0, 3] : List Byte).length = 3 ∧
    ((1 : Byte) :: List.replicate 111 0).length = 112 ∧ ((1 : Byte) :: List.replicate 111 0).head? = some 1 := by
  decide

theorem test_meets_ContentEndsByFlagOrAbort : false ∈ [false] ∧ 5 ≤ (List.replicate 5 true).length := by decide

/-- Content of five 1 bits is sent with an inserted 0 and is no whole byte; a bare run of five is idle (log 11). -/
theorem test_receive_idle : receive (stuff 0 (List.replicate 5 true) ++ flagBits) = .discarded false ∧
    receive (List.replicate 5 true ++ flagBits) = .nothing ∧ receive (List.replicate 6 true ++ [false]) = .nothing := by
  decide

/-- P1 with two requests in its buffer, P0 with one, both with an execution response queued. -/
def busy : State := (quiet.modifyPort 1 fun u => { u with
    rx := [bodyOf 1 .detach [], bodyOf 2 .detach []]
    responses := [⟨true, 1, 34, .ok, []⟩] }).modifyPort 0 fun u => { u with
    rx := [bodyOf 1 .detach []]
    responses := [⟨true, 1, 34, .ok, []⟩] }

theorem test_meets_FrameReceivedOutcomes :
    busy.ports[1].lossDue = false ∧ busy.time.secondDue = false ∧ receive [] = .nothing ∧
    receive (lineOf [2, 0, 3]) = .discarded true ∧ receive (lineOf (bodyOf 4 .status [])) = .request [1, 4, 3] ∧
    statusRequest [1, 4, 3] = some (4, []) ∧ statusRequest [1, 4, 2] = none ∧
    2 ≤ busy.ports[1].rx.length ∧ busy.ports[1].canTake = false ∧ busy.ports[0].rx.length < 2 ∧
    busy.ports[0].canTake = false ∧ quiet.ports[0].rx = [] ∧ quiet.ports[0].canTake = true := by decide +kernel

theorem test_meets_TakenRequestIsItsRow : requestBody (.setHold 0 5 7) = some (0, bodyOf 5 .setHold [7]) ∧
    buffered.ports[0].rx = [bodyOf 5 .setHold [7]] ∧ buffered.ports[0].canTake = true := by decide +kernel

/-- P0 with a response in transmission and a request that can be taken at its end. -/
def finishing : State := buffered.modifyPort 0 fun u => { u with
  responses := [⟨true, 1, 34, .ok, []⟩]
  tx := .response }

def aNotice : Notice := ⟨.raised, .port 1, 21, 2, 40, .caution, .activeUnack, false, none, ⟨0, 0⟩⟩

theorem test_meets_TransmissionsFollowTheQueues : answered.ports[0].rx = [] ∧ busy.ports[0].rx ≠ [] ∧
    busy.ports[0].canTake = false ∧ finishing.dueNow = [] ∧ finishing.ports[0].rx ≠ [] ∧
    finishing.ports[0].tx = .response ∧ finishing.ports[0].responses = ⟨true, 1, 34, .ok, []⟩ :: [] ∧
    { portOn with
      tx := .notice
      notices := [⟨1, aNotice⟩] }.notices = ⟨1, aNotice⟩ :: [] := by decide +kernel

/-- The end of a response takes the request that waits in the buffer, and its response is begun (R180, R192). -/
theorem test_transmissionEnd_takes : (after (.transmissionEnd 0) finishing).rail.holdSetting = 7 ∧
    (after (.transmissionEnd 0) finishing).ports[0].tx = .response ∧
    (after (.transmissionEnd 0) finishing).ports[0].responses = [⟨true, 5, 34, .ok, []⟩] := by decide +kernel

theorem test_meets_AdmissionRefusals :
    requestBody (.detach 2 0) = some (2, [1, 0, 2]) ∧ quiet.ports[2].canTake = true ∧
    quiet.ports[2].state ≠ .attached ∧ quiet.ports[1].canTake = true ∧ quiet.ports[1].state = .attached ∧
    lengthAllowed (.writeCells 1 0 0 0 0 []) = false ∧ lengthAllowed (.setNotices 1 0 2) = true ∧
    (Instr.setNotices 1 0 2).wellFormed = false ∧ (Instr.setHold 1 0 1).wellFormed = true ∧
    supervisorOnly (.setHold 1 0 1) = true ∧ quiet.supervisor ≠ some 1 ∧ attachOk 1 60 1 = true ∧
    quiet.supervisor = some 0 ∧ lengthAllowed (.writeCells 1 0 0 0 0 [65, 3]) = true ∧
    (Instr.writeCells 1 0 15 7 39 [65, 3]).wellFormed = true ∧
    (Instr.writeCells 1 0 15 7 39 [65, 4]).wellFormed = false ∧
    (Instr.ackAlert 1 0 3 255).wellFormed = true ∧ (Instr.ackAlert 1 0 4 6).wellFormed = false := by decide +kernel

/-- P2, DETACHED, with a body of no request code, and P0, ATTACHED, with a SET_HOLD that lacks its operand. -/
def unread : State := (quiet.modifyPort 2 fun u => { u with rx := [[1, 0, 255]] }).modifyPort 0 fun u =>
  { u with rx := [[1, 0, 34]] }

/-- P2 and P3, DETACHED, with an ATTACH and a SET_HOLD that lack operands (R181). -/
def unattached : State := (quiet.modifyPort 2 fun u => { u with rx := [[1, 0, 1, 0]] }).modifyPort 3 fun u =>
  { u with rx := [[1, 0, 34]] }

theorem test_meets_UnreadableBodies_unattached : unattached.ports[2].rx = [[1, 0, 1, 0]] ∧
    unattached.ports[2].canTake = true ∧ RequestCode.attach.byte = 1 ∧ unattached.ports[3].rx = [[1, 0, 34]] ∧
    unattached.ports[3].canTake = true ∧ unattached.ports[3].state ≠ .attached ∧
    (∀ i, requestBody i ≠ some (2, [1, 0, 1, 0])) ∧ ∀ i, requestBody i ≠ some (3, [1, 0, 34]) := by
  refine ⟨rfl, rfl, rfl, rfl, rfl, by decide, ?_, ?_⟩ <;>
    · intro i
      cases i <;> simp [requestBody, bodyOf, RequestCode.byte, bytesOf16, bytesOf32]

theorem test_takeRequest_unattached : lastOf 2 (after (.takeRequest 2) unattached) = some (.badLength, []) ∧
    lastOf 3 (after (.takeRequest 3) unattached) = some (.notAttached, []) := by decide +kernel

theorem test_meets_UnreadableBodiesAreRefused : unread.ports[2].rx = [[1, 0, 255]] ∧
    unread.ports[2].canTake = true ∧ (∀ rc, RequestCode.byte rc ≠ 255) ∧ unread.ports[0].rx = [[1, 0, 34]] ∧
    unread.ports[0].canTake = true ∧ unread.ports[0].state = .attached ∧ (∃ rc, RequestCode.byte rc = 34) ∧
    ∀ i, requestBody i ≠ some (0, [1, 0, 34]) := by
  refine ⟨rfl, rfl, ?_, rfl, rfl, rfl, ⟨.setHold, rfl⟩, ?_⟩
  · intro rc
    cases rc <;> decide
  · intro i
    cases i <;> simp [requestBody, bodyOf, RequestCode.byte, bytesOf16, bytesOf32]

theorem test_meets_AttachAccepted : quiet.ports[2].canTake = true ∧ attachOk 0 0 0 = true ∧
    attachOk 1 60 1 = true ∧ quiet.time.secondDue = false ∧ quiet.supervisorOk = true ∧
    quiet.supervisor = some 0 ∧ quiet.ports[0].canTake = true ∧ quiet.ports[0].state = .attached ∧
    quiet.ports[2].state = .detached ∧ (quiet.modifyPort 3 PortUnit.lose).ports[3].state = .lost ∧
    (quiet.modifyPort 3 PortUnit.lose).ports[3].canTake = true := by decide +kernel

theorem test_meets_serves : quiet.serves 0 ∧ quiet.serves 1 ∧ quiet.supervisor = some 0 := by decide +kernel

/-- P1 waits on a window of P0, which closes (R42, R190): by DETACH and RESET_PORT, and by the loss of P0. -/
theorem test_meets_waitsGone : waiting.serves 0 ∧ waiting.ports[1].wait = some ⟨0, 5, 5, 7⟩ ∧
    waiting.windows[(0 : WindowId)] = some strip ∧ strip.owner = 0 ∧
    lastOf 1 (after (.detach 0 1) waiting) = some (.windowGone, []) ∧
    lastOf 1 (after (.resetPort 0 1) waiting) = some (.windowGone, []) ∧ waiting.alertsOk = true ∧
    (losing.modifyPort 1 fun u => { u with wait := some ⟨0, 5, 5, 7⟩ }).ports[0].lossDue = true ∧
    losing.ports[0].lossAction = .close := by decide +kernel

def threeReports : State := quiet.modifyPort 1 fun u => { u with
  responses := List.replicate 3 ⟨false, 1, 3, .ok, []⟩ }

theorem test_meets_StatusReports : 3 ≤ threeReports.ports[1].statusResponses ∧
    quiet.ports[1].statusResponses < 3 := by decide +kernel

theorem test_meets_SettingRequests : setFilterOk 3 1 2 = true ∧ (1 : Byte).toNat = 1 ∧ (60 : Byte).toNat = 60 ∧
    (240 : Byte).toNat ≤ 240 ∧ quiet.time.secondDue = false ∧ quiet.refreshDue = false := by decide +kernel

theorem test_meets_WaitsBeginAndTimeOut : windowed.serves 0 ∧ waitSettledOk 0 1 = true ∧ waitSettledOk 15 60 = true ∧
    windowed.time.secondDue = false ∧ windowed.windows[windowOf 0] = some strip ∧
    (∀ n : TileId, strip.rect.touches n = true → windowed.tiles[n].state = .settled) ∧
    strip.rect.touches 10 = true ∧ { windowed with tiles := State.reset.tiles }.tiles[(10 : TileId)].state ≠ .settled ∧
    waiting.ports[1].wait = some ⟨0, 5, 5, 7⟩ ∧ windowed.ports[1].wait = none := by decide +kernel

theorem test_meets_PortLossEffects : windowed.ports[0].lossDue = false ∧ losing.ports[0].lossDue = true := by
  decide +kernel

theorem test_meets_NoticesTaken : portReset.receives 1 aNotice = false ∧ portOn.receives 1 aNotice = true ∧
    portOn.noticesEnabled = true ∧ portOn.notices.length < 8 ∧
    8 ≤ { portOn with notices := List.replicate 8 ⟨1, aNotice⟩ }.notices.length ∧
    { portOn with noticesEnabled := false }.receives 1 aNotice = true := by decide +kernel

/-- No window but `skip` at a level meets a rectangle: the hypothesis of the statements, from its check. -/
theorem none_meets {s : State} {skip : Option WindowId} {level : Nat} {r : Rect}
    (h : s.overlaps skip level r = false) (j : WindowId) (w : Window) (hj : skip ≠ some j)
    (hw : s.windows[j] = some w) (hl : w.level = level) : w.rect.meets r = false := by
  unfold State.overlaps at h
  rw [List.any_eq_false] at h
  have := h j (List.mem_finRange j)
  rw [hw] at this
  simpa [hj, hl] using this

theorem test_meets_OpenWindowOpens : lit.serves 0 ∧ openWindowOk 0 0 8 40 3 = true ∧ openWindowOk 7 39 1 1 0 = true ∧
    lit.windows[(0 : WindowId)] = none ∧ (∀ j < (0 : WindowId), lit.windows[j] ≠ none) ∧
    (∀ (j : WindowId) (w : Window), lit.windows[j] = some w → w.level = 3 → w.rect.meets ⟨0, 0, 8, 40⟩ = false) ∧
    8 * 40 ≤ lit.freeCells :=
  ⟨by decide +kernel, rfl, rfl, by decide +kernel, by decide, fun j w => none_meets (skip := none) (by decide +kernel)
    j w (by simp), by decide +kernel⟩

/-- A deferred window of 231 cells at a level. -/
def sheet (level : Nat) : Window := { strip with
  row := 0
  height := 7
  width := 33
  level := level
  published := some strip.working }

/-- A window of 120 cells. -/
def tall : Window := { strip with
  row := 0
  height := 8
  width := 15 }

/-- All entries OPEN; a pool with 100 cells left; and one with less than `tall` would take. -/
def full : State := { lit with windows := Vector.replicate 16 (some strip) }
def scarce : State := { lit with windows := (lit.windows.set 3 (some (sheet 0))).set 4 (some (sheet 2)) }
def scarcer : State := { scarce with windows := scarce.windows.set 0 (some tall) }

theorem test_meets_OpenWindowRefusals : (∀ i : WindowId, full.windows[i] ≠ none) ∧
    windowed.windows[(2 : WindowId)] = none ∧ ¬(7 + 2 ≤ 8 ∧ 0 + 1 ≤ 40) ∧
    (∃ (j : WindowId) (w : Window), windowed.windows[j] = some w ∧ w.level = 1 ∧
      w.rect.meets ⟨2, 9, 1, 1⟩ = true) ∧
    (¬∃ (j : WindowId) (w : Window), scarce.windows[j] = some w ∧ w.level = 3 ∧ w.rect.meets ⟨0, 0, 8, 40⟩ = true) ∧
    scarce.freeCells < 8 * 40 ∧ scarce.windows[(0 : WindowId)] = none := by
  refine ⟨by decide +kernel, by decide +kernel, by decide, ⟨0, strip, by decide +kernel, rfl, rfl⟩, ?_,
    by decide +kernel, by decide +kernel⟩
  rintro ⟨j, w, h, hl, hm⟩
  have := none_meets (s := scarce) (skip := none) (r := ⟨0, 0, 8, 40⟩) (by decide +kernel) j w (by simp) h hl
  simp [this] at hm

theorem test_meets_WindowRequestRefusals : windowed.serves 1 ∧ windowed.serves 0 ∧ upTo 15 15 = true ∧
    windowed.windows[windowOf 15] = none ∧ windowed.windows[windowOf 0] = some strip ∧
    moveWindowOk 15 7 39 3 = true ∧ setWindowOk 15 1 1 15 = true ∧ cellsLengthOk [65, 3] = true ∧
    writeCellsOk 15 7 39 [65, 3] = true ∧ fillCellsOk 15 7 39 8 40 3 = true ∧ readCellsOk 15 7 39 40 = true ∧
    within 1 60 60 = true ∧ strip.owner ≠ 1 ∧ strip.writers.getLsbD 1 = false ∧
    ¬(7 + strip.height ≤ 8 ∧ 31 + strip.width ≤ 40) ∧ 7 + strip.height ≤ 8 ∧ 30 + strip.width ≤ 40 ∧
    (∃ (j : WindowId) (v : Window), j ≠ windowOf 0 ∧ windowed.windows[j] = some v ∧ v.level = 2 ∧
      v.rect.meets ⟨2, 9, strip.height, strip.width⟩ = true) ∧ strip.published = none ∧
    ¬(0 < strip.height ∧ 9 < strip.width ∧ 0 * strip.width + 9 + 2 ≤ strip.area) ∧
    ¬(0 + 1 ≤ strip.height ∧ 9 + 2 ≤ strip.width) := by
  refine ⟨by decide +kernel, by decide +kernel, rfl, rfl, rfl, rfl, rfl, rfl, rfl, rfl, rfl, rfl, by decide,
    by decide, by decide, by decide, by decide, ⟨1, _, by decide, rfl, rfl, rfl⟩, rfl, by decide, by decide⟩

/-- A deferral that the pool cannot hold. -/
theorem test_meets_WindowRequestRefusals_space : scarcer.windows[windowOf 0] = some tall ∧ tall.owner = 0 ∧
    tall.published = none ∧ scarcer.freeCells < tall.area := by decide +kernel

theorem test_meets_windowRequests : windowed.serves 0 ∧ windowed.windows[windowOf 1] = some { strip with
      level := 2
      published := some strip.working } ∧ windowed.windows[windowOf 0] = some strip ∧ strip.owner = 0 ∧
    setWindowOk 0 0 1 15 = true ∧ strip.area ≤ windowed.freeCells ∧ moveWindowOk 0 2 30 2 = true ∧
    strip.working.length = strip.area ∧ cellsLengthOk [65, 0, 66, 3] = true ∧
    writeCellsOk 0 0 8 [65, 0, 66, 3] = true ∧ 0 < strip.height ∧ 8 < strip.width ∧
    (0 * strip.width + 8 + 4 / 2 ≤ strip.area) ∧ fillCellsOk 0 0 9 1 1 3 = true ∧ 0 + 1 ≤ strip.height ∧
    9 + 1 ≤ strip.width ∧ readCellsOk 0 0 0 10 = true ∧ (0 * strip.width + 0 + 10 ≤ strip.area) ∧
    waiting.ports[1].wait = some ⟨windowOf 0, 5, 5, 7⟩ := by decide +kernel

theorem test_meets_MoveWindowMoves : ∀ (j : WindowId) (v : Window), j ≠ windowOf 0 → windowed.windows[j] = some v →
    v.level = 2 → v.rect.meets ⟨2, 30, strip.height, strip.width⟩ = false := fun j v hj =>
  none_meets (skip := some (windowOf 0)) (by decide +kernel) j v (fun h => hj (Option.some.inj h).symm)

theorem test_meets_ReadsAnswerAndChangeNothing : crowded.serves 0 ∧ (37 : Byte).toNat ≤ 37 ∧
    (31 : Byte).toNat < crowded.alerts.length ∧ ([{ record21 with source := .port 0, code := 30 },
      { record21 with source := .port 0, code := 31 }] : List Alert) <+: crowded.alerts.drop 30 := by
  decide +kernel

/-- The five sources of a cell: test, blank, banner, a window of the highest level, background (R4, R5). -/
theorem test_meets_StaleTileReports : (held.keys.test.held || held.remoteTest) = true ∧
    (lit.keys.test.held || lit.remoteTest) = false ∧ { lit with blank := true }.blank = true ∧
    alarmed.bannerRecords = [record21] ∧ 0 < alarmed.bandHeight ∧ lit.bannerRecords = [] ∧
    alarmed.bandHeight ≤ 1 ∧ windowed.windows[(1 : WindowId)] = some { strip with
      level := 2
      published := some strip.working } ∧ Rect.holds strip.rect 2 9 = true ∧ Rect.holds strip.rect 2 10 = false ∧
    (∀ (j : WindowId) (v : Window), j ≠ 1 → windowed.windows[j] = some v → v.level < 2) ∧
    (some strip.working).getD strip.working = strip.working ∧
    strip.working[(2 - 2) * 10 + (9 - 0)]? = some background ∧
    (∀ (i : WindowId) (w : Window), windowed.windows[i] = some w → w.rect.holds 2 10 = false) := by
  refine ⟨rfl, rfl, rfl, by decide +kernel, by decide, by decide +kernel, by decide, by decide +kernel, rfl, rfl,
    ?_, rfl, rfl, ?_⟩
  · intro j v hj hv
    fin_cases j <;> simp_all [windowed, lit, quiet, State.resetValues]
    all_goals
      subst hv
      decide
  · intro i w hw
    fin_cases i <;> simp_all [windowed, lit, quiet, State.resetValues]
    all_goals
      subst hw
      decide

/-- A tile of each class (R62): of the band while the banner composes it, UNKNOWN, and another. -/
theorem test_meets_tileClass : alarmed.bannerRecords ≠ [] ∧ alarmed.keys.test.held = false ∧
    alarmed.remoteTest = false ∧ alarmed.blank = false ∧ (4 : TileId).val / 5 < alarmed.bandHeight ∧
    ¬(5 : TileId).val / 5 < alarmed.bandHeight ∧ State.reset.tiles[(5 : TileId)].state = .unknown ⟨0, 0⟩ ∧
    (∀ a, stale.tiles[(7 : TileId)].state ≠ .unknown a) := by
  refine ⟨by decide +kernel, by decide, rfl, rfl, by decide, by decide, by decide +kernel, ?_⟩
  intro a h
  have : stale.tiles[(7 : TileId)].state = .pending ⟨5, 1⟩ := by decide +kernel
  rw [this] at h
  simp at h

theorem test_meets_JobStart : stale.railOn = true ∧ stale.engines[(0 : EngineId)] = none ∧
    (∀ d < (0 : EngineId), stale.engines[d] ≠ none) ∧ stale.tiles[(7 : TileId)].since = some ⟨5, 1⟩ ∧
    (∀ (m : TileId), m ≠ 7 → stale.tiles[m].since = none ∨ (stale.tiles[m].since = some ⟨5, 2⟩ ∧
      stale.tileClass 7 = stale.tileClass m ∧ Stamp.before ⟨5, 1⟩ ⟨5, 2⟩ = true)) := by decide +kernel

theorem test_meets_JobCompletion : driving.engines[(2 : EngineId)] =
    some ⟨7, .partialDrive, Vector.replicate 8 background, 0⟩ ∧ driving.railOn = true ∧
    { driving with engines := driving.engines.set 1 (some ⟨8, .fullDrive, Vector.replicate 8 background, 24⟩) }.engines[
      (1 : EngineId)] = some ⟨8, .fullDrive, Vector.replicate 8 background, 24⟩ := by decide +kernel

/-- `driving` with W0 over T7 and T8, the wait of P1 on it, and a wait of P2 on W3, which is FREE. -/
def awaited : State := ({ driving with
  windows := driving.windows.set 0 (some { strip with
    row := 1
    col := 16 }) }.modifyPort 1 fun u => { u with wait := some ⟨0, 5, 2, 7⟩ }).modifyPort 2 fun u =>
  { u with wait := some ⟨3, 5, 2, 8⟩ }

/-- A completion with a waiting tile: the engine is free, and takes it (R57, R61). A wait on another tile goes on. -/
theorem test_meets_JobCompletion_waits : awaited.ports[1].wait = some ⟨0, 5, 2, 7⟩ ∧
    Rect.touches ⟨1, 16, 1, 10⟩ 7 = true ∧ awaited.ports[2].wait = some ⟨3, 5, 2, 8⟩ ∧
    awaited.windows[(3 : WindowId)] = none ∧ lastOf 1 (after (.jobCompletion 2) awaited) = some (.ok, []) ∧
    (after (.jobCompletion 2) awaited).ports[2].wait = some ⟨3, 5, 2, 8⟩ ∧
    (after (.jobCompletion 2) { driving with tiles := driving.tiles.set 3 ⟨.pending ⟨5, 2⟩, 2, false⟩ }).engines[
      (0 : EngineId)] = some ⟨3, .partialDrive, Vector.replicate 8 background, 8⟩ := by decide +kernel

/-- `lit` with W0 over T7 and T8, whose glyphs the panel does not show yet, and the wait of P1 on it. -/
def showing : State := { lit with
  rail := ⟨.falling 1, 0, 3⟩
  windows := lit.windows.set 0 (some { strip with
    row := 1
    col := 16
    working := List.replicate 10 ⟨65, false, .normal⟩ })
  tiles := (lit.tiles.set 7 ⟨.pending ⟨5, 1⟩, 2, false⟩).set 8 ⟨.pending ⟨5, 1⟩, 2, false⟩ }.modifyPort 1 fun u =>
    { u with wait := some ⟨0, 5, 2, 7⟩ }

/-- A wait on a window that stays OPEN: ended by the reports that settle its tiles, and by no others (R72, R190). -/
theorem test_waitsFollow : lastOf 1 (after (.blank 0 1 1) showing) = some (.ok, []) ∧
    (after (.blank 0 1 1) showing).ports[1].wait = none ∧
    (after (.setBanner 0 1 2) showing).ports[1].wait = some ⟨0, 5, 2, 7⟩ := by decide +kernel

/-- The hold timer: started at its full length, left running, stopped where a tile waits (R76, R81). -/
theorem test_hold :
    (after (.jobCompletion 2) { driving with rail := ⟨.on none, 0, 60⟩ }).rail.state = .on (some 3840) ∧
    (after (.blank 0 1 1) { lit with rail := ⟨.on (some 5), 0, 60⟩ }).rail.state = .on (some 5) ∧
    (after (.fullRefresh 0 1 0 0) { lit with rail := ⟨.on (some 5), 0, 60⟩ }).rail.state = .on none := by
  decide +kernel

/-- The drive-supply enable (R75). -/
theorem test_enable : { lit with rail := ⟨.rising 4, 0, 3⟩ }.enable = true ∧ lit.enable = true ∧
    { lit with rail := ⟨.falling 1, 0, 3⟩ }.enable = false ∧ { lit with rail := ⟨.off, 0, 3⟩ }.enable = false ∧
    { lit with rail := ⟨.fault none, 3, 3⟩ }.enable = false := by decide +kernel

/-- A detaching supervisor's remote test ends, then its windows close (R158, R183, R42): the tile of the closed
window is settled by the closure, after the end of the test left it waiting. -/
theorem test_detach_picture : let s := { showing with remoteTest := true }
    (after (.detach 0 1) s).tiles[(7 : TileId)].state = .settled ∧
    lastOf 1 (after (.detach 0 1) s) = some (.windowGone, []) ∧
    (after (.resetPort 0 1) showing).tiles[(7 : TileId)].state = .settled := by decide +kernel

theorem test_meets_FullRefreshMarks : windowed.serves 0 ∧ windowed.supervisor = some 0 ∧ upTo 15 0 = true ∧
    windowed.windows[windowOf 0] = some strip ∧ refreshing.refreshPeriod ≠ 0 ∧
    refreshing.refreshPeriod * 60 ≤ refreshing.refreshCount ∧ lit.refreshCount < lit.refreshPeriod * 60 := by
  decide +kernel

theorem test_meets_PowerGoodChanges : State.reset.rail.state = .rising 4 ∧ (∀ n, lit.rail.state ≠ .rising n) ∧
    quiet.railOn = false ∧ driving.railOn = true := by
  refine ⟨rfl, fun n => by simp [lit], rfl, rfl⟩

theorem test_meets_RiseTimerExpiry : State.reset.rail.state ≠ .rising 0 ∧
    { lit with rail := ⟨.rising 0, 2, 3⟩ }.rail.attempts = 2 ∧ { lit with rail := ⟨.rising 0, 0, 3⟩ }.rail.state =
      .rising 0 := by decide +kernel

theorem test_meets_RailLeavesItsStates : lit.rail.state ≠ .on (some 0) ∧
    { lit with rail := ⟨.falling 0, 0, 3⟩ }.anyWaiting = false ∧
    { stale with rail := ⟨.falling 0, 0, 3⟩ }.anyWaiting = true ∧
    { quiet with rail := ⟨.fault none, 3, 3⟩ }.serves 0 ∧ ¬((∃ r, quiet.rail.state = .fault r) ∧ quiet.rail.attempts = 3) ∧
    (∃ r, { stale with rail := ⟨.fault none, 3, 3⟩ }.rail.state = .fault r) := by
  refine ⟨by decide, by decide +kernel, by decide +kernel, by decide +kernel, ?_, ⟨none, rfl⟩⟩
  rintro ⟨⟨_, h⟩, _⟩
  simp [quiet, State.resetValues] at h

theorem test_meets_RaiseAlert : alarmed.serves 1 ∧ messageLengthOk (List.replicate 32 65) = true ∧
    raiseAlertOk 2 15 7 = true ∧ raiseAlertOk 0 255 255 = true ∧ alarmed.record (.port 1) 21 = some record21 ∧
    alarmed.record (.port 1) 22 = none ∧ portCount alarmed.alerts < 32 ∧ crowded.serves 1 ∧
    crowded.record (.port 1) 22 = none ∧ 32 ≤ portCount crowded.alerts := by decide +kernel

theorem test_meets_ClearAndAck : alarmed.serves 0 ∧ alarmed.serves 1 ∧ sourceCodeOk 1 21 = true ∧
    sourceCodeOk 4 5 = true ∧ sourceOf 1 = .port 1 ∧ alarmed.supervisor = some 0 ∧
    alarmed.record (sourceOf 1) 21 = some record21 ∧ record21.state = .activeUnack ∧
    alarmed.record .system listOverflowCode = none ∧ (Source.port 1, (21 : Byte)) ≠ (.system, listOverflowCode) ∧
    { alarmed with alerts := [{ record21 with state := .activeAck .key ⟨0, 0⟩ }] }.record (.port 1) 21 =
      some { record21 with state := .activeAck .key ⟨0, 0⟩ } ∧
    { alarmed with alerts := [{ record21 with state := .clearedUnack ⟨0, 0⟩ }] }.record (.port 1) 21 =
      some { record21 with state := .clearedUnack ⟨0, 0⟩ } := by decide +kernel

theorem test_meets_RecordRequestRefusals : alarmed.serves 1 ∧ sourceCodeOk 0 21 = true ∧ (1 : BitVec 16).toNat = 1 ∧
    alarmed.record (.port 1) 22 = none ∧ sourceOf 0 ≠ .port 1 ∧ alarmed.supervisor ≠ some 1 ∧
    alarmed.record (sourceOf 0) 21 = none := by decide +kernel

theorem test_meets_Shelving : alarmed.serves 0 ∧ alarmed.supervisor = some 0 ∧ sourceCodeOk 1 21 = true ∧
    alarmed.record (sourceOf 1) 21 = some record21 ∧ record21.shelved = none ∧ (65535 : BitVec 16).toNat = 65535 ∧
    expired.record (sourceOf 1) 21 = some { record21 with shelved := some 0 } ∧ expired.serves 0 ∧
    expired.alertsOk = true ∧ expired.shelvingDue = true ∧ alarmed.shelvingDue = false := by decide +kernel

/-- The sounder's output (R135) in an on period of each kind of entry, and outside one; and its sources (R138). -/
theorem test_meets_CodesGiveFrequencies : lit.pattern = none ∧
    (playing .chime 2 (.on 5) 0).pattern = some ⟨.chime, 2, .on 5, 0⟩ ∧
    (playing .chime 2 (.on 5) 0).tones[(2 : ToneId)].secondary = none ∧
    (playing .chime 2 (.on 5) 0).sounder = .one 96 (-6) ∧
    { playing .chime 2 (.on 5) 1 with tones := tonesReset.set 2 ⟨96, some 64, .alternate, 13, 32, 32, 1⟩ }.sounder =
      .one 64 (-6) ∧
    { playing .chime 2 (.on 5) 1 with tones := tonesReset.set 2 ⟨96, some 64, .together, 13, 32, 32, 1⟩ }.sounder =
      .two 96 64 (-12) ∧
    { playing .chime 2 (.on 5) 1 with tones := tonesReset.set 2 ⟨96, some 64, .together, 0, 32, 32, 1⟩ }.sounder =
      .silence ∧
    (playing .chime 2 (.off 5) 1).sounder = .silence ∧ held.selectSource = some (.test, 4) ∧
    ranked (alarmed.alerts.filter fun a => decide (a.state = .activeUnack ∧ a.silenced = false ∧
      a.shelved = none)) = record21 :: [] ∧
    { lit with chimes := [2] }.selectSource = some (.chime, 2) ∧ lit.selectSource = none := by decide +kernel

/-- The choice of the source: one that plays goes on, a chime that is overtaken leaves the queue (R139, R140). -/
theorem test_meets_chooseSource : alarmed.selectSource = some (.alert (.port 1) 21, 2) ∧
    (playing (.alert (.port 1) 21) 2 (.off 5) 1).pattern = some ⟨.alert (.port 1) 21, 2, .off 5, 1⟩ ∧
    (playing .chime 1 (.on 5) 0).selectSource = some (.alert (.port 1) 21, 2) ∧
    (playing .chime 1 (.on 5) 0).chooseSource.chimes = [] ∧
    (playing .chime 1 (.on 5) 0).chooseSource.pattern = some ⟨.alert (.port 1) 21, 2, .on 32, 0⟩ ∧
    { lit with pattern := some ⟨.test, 4, .ended, 0⟩ }.chooseSource.pattern = none := by decide +kernel

/-- The pattern of P1's record at each end of a period: an off period to come, the next on period, the end. -/
theorem test_meets_PeriodEnd : (playing (.alert (.port 1) 21) 2 (.on 0) 0).tones[(2 : ToneId)].offTicks ≠ 0 ∧
    tonesReset[(3 : ToneId)].offTicks = 0 ∧ tonesReset[(3 : ToneId)].repeats = 0 ∧
    tonesReset[(1 : ToneId)].offTicks = 0 ∧ tonesReset[(1 : ToneId)].repeats = (0 + 1) % 256 ∧
    tonesReset[(2 : ToneId)].repeats = 0 ∧ (playing .chime 2 (.off 0) 1).tones[(2 : ToneId)].repeats = 1 ∧
    lit.panelTest = false ∧ soundingAlert lit.alerts = none := by decide +kernel

theorem test_meets_SounderRequests : lit.serves 0 ∧ setToneOk 7 1 1 15 255 = true ∧ (1 : Byte).toNat = 1 ∧
    (7 : Byte).toNat = 7 ∧ lit.tones[toneOf 2].repeats = 0 ∧ lit.tones[toneOf 1].repeats ≠ 0 ∧
    4 ≤ { lit with chimes := [1, 1, 1, 1] }.chimes.length ∧ lit.chimes.length < 4 ∧ lit.soundOk = true := by
  decide +kernel

theorem test_meets_OverlayRequests : lit.serves 0 ∧ lit.supervisor = some 0 ∧ (1 : Byte).toNat = 1 ∧
    (2 : Byte).toNat = 2 ∧ lit.bandHeight = 1 ∧ lit.blank = decide ((0 : Byte) = 1) ∧
    lit.blank ≠ decide ((1 : Byte) = 1) ∧ held.keys.test.held = true ∧ lit.keys.test.held = false ∧
    lit.remoteTest ≠ decide ((1 : Byte) = 1) := by decide +kernel

/-- The band (R121 to R126): a record's row in ringback and not, a row with no record, and the count field. -/
theorem test_meets_bandCells : alarmed.bannerRecords[0]? = some record21 ∧ alarmed.bannerRecords[1]? = none ∧
    { crowded with bandHeight := 2 }.bannerRecords.length - 2 = 30 ∧
    ({ alarmed with alerts := [{ record21 with state := .clearedUnack ⟨0, 0⟩ }] } : State).view.composed 0 4 =
      ⟨70, false, .inverse⟩ ∧
    alarmed.view.composed 0 0 = ⟨67, true, .normal⟩ ∧ alarmed.view.composed 0 36 = ⟨32, false, .normal⟩ ∧
    { crowded with bandHeight := 2 }.view.composed 1 37 = ⟨43, false, .normal⟩ ∧
    { crowded with bandHeight := 2 }.view.composed 1 38 = ⟨51, false, .normal⟩ ∧
    { crowded with bandHeight := 2 }.view.composed 1 39 = ⟨48, false, .normal⟩ ∧
    { crowded with bandHeight := 2 }.view.composed 0 39 = ⟨32, false, .normal⟩ := by decide +kernel

theorem test_meets_AckPress : held.keys.ack.held = true ∧ lit.keys.ack.debounce < 4 ∧ pressed.keys.ack.held = false ∧
    4 ≤ pressed.keys.ack.debounce ∧ pressed.alerts = [] ++ record21 :: [] ∧ record21.eligible = true ∧
    pressed.record record21.source record21.code = some record21 ∧
    (∀ a ∈ { pressed with alerts := [] }.alerts, a.eligible = false) ∧
    { record21 with state := .clearedUnack ⟨0, 0⟩ }.eligible = true ∧
    pressed.record .system listOverflowCode = none := by decide +kernel

theorem test_meets_AckHold : alarmed.alertsOk = true ∧ alarmed.keys.holdDue = false ∧
    { alarmed with keys := { alarmed.keys with holdDue := true } }.keys.holdDue = true := by decide +kernel

theorem test_meets_keys : held.keys.silence.held = true ∧ lit.keys.silence.debounce < 4 ∧
    pressed.keys.silence.held = false ∧ 4 ≤ pressed.keys.silence.debounce ∧ pressed.keys.test.held = false ∧
    4 ≤ pressed.keys.test.debounce ∧ held.keys.test.held = true ∧ 4 ≤ held.keys.test.debounce ∧
    pressed.remoteTest = false ∧ { pressed with remoteTest := true }.remoteTest = true := by decide +kernel

theorem test_meets_TickCounts : lit.dueNow = [] ∧ State.reset.dueNow = [] ∧ second.tonesOk = true ∧
    second.rail.ok = true ∧ second.dueNow = [.second, .blink, .loss 0] := by decide +kernel

/-- A tick event takes the rest of the last one first: one event left due, and no order to draw. -/
theorem test_tickEvent_due : (after (.tickEvent false false false) { lit with rail := ⟨.on (some 0), 0, 3⟩ }).rail =
    ⟨.falling 1, 0, 3⟩ := by decide +kernel

theorem test_meets_SecondAndBlinkEvents : lit.time.secondDue = false ∧ second.time.secondDue = true ∧
    lit.time.blinkDue = false ∧ second.time.blinkDue = true := by decide +kernel

/-- P0, the supervisor, with a second event due that brings its loss. -/
def ending : State := { lit with time := ⟨0, 10, true, true, false⟩ }.modifyPort 0 fun u => { u with
  keepalive := 2
  keepaliveCount := some 1 }

theorem test_meets_SetTimeSets : lit.serves 0 ∧ lit.supervisor = some 0 ∧ lit.dueNow = [] ∧ lit.alertsOk = true ∧
    ending.serves 0 ∧ ending.supervisor = some 0 ∧ ending.tonesOk = true ∧ ending.rail.ok = true ∧
    ending.dueNow = [.second] := by decide +kernel

/-- A request whose port the second event of this very tick loses is gone with it (R187; log 8). -/
theorem test_setTime_lost : (after (.setTime 0 1 5000) ending).time.seconds = 10 ∧
    (after (.setTime 0 1 5000) ending).ports[0].state = .lost ∧
    (after (.setTime 0 1 5000) ending).ports[0].responses = [] := by decide +kernel

/-- The laws hold in states with every block at work. -/
theorem test_meets_laws : lit.ok = true ∧ windowed.windowsOk = true ∧ windowed.levelsOk = true ∧
    windowed.poolOk = true ∧ windowed.portsOk = true ∧ windowed.supervisorOk = true ∧ windowed.waitsOk = true ∧
    driving.driveOk = true ∧ driving.tilesOk = true ∧ driving.railOk = true ∧ alarmed.alertsOk = true := by
  decide +kernel

/-- A step of each kind of law's premise is taken. -/
theorem test_meets_step : step lit = .next lit := rfl

end Sys2Proof.Tests
end

section
/-!
PROOF. The machine right after reset (O3): what each table holds at an index, then the laws of Safety, block by
block, from those values.
-/

namespace Sys2Proof.Machine

/-! ### The tables of State.reset at an index -/

theorem State.reset_windows_get (i : WindowId) : State.reset.windows[i] = none := by
  simp [State.reset, State.resetValues]

theorem State.reset_tiles_get (n : TileId) : State.reset.tiles[n] = tileReset := by
  simp [State.reset, State.resetValues]

theorem State.reset_panel_get (n : TileId) : State.reset.panel[n] = unknownCells := by
  simp [State.reset, State.resetValues, unknownCells]

theorem State.reset_engines_get (e : EngineId) : State.reset.engines[e] = none := by
  simp [State.reset, State.resetValues]

theorem State.reset_ports : State.reset.ports = Vector.replicate 4 portReset := rfl

theorem State.reset_ports_get (p : PortId) : State.reset.ports[p] = portReset := by
  simp [State.reset_ports]

theorem State.mem_reset_windows {e : Option Window} (h : e ∈ State.reset.windows.toList) : e = none := by
  simpa [State.reset, State.resetValues] using h

theorem State.mem_reset_engines {e : Option Job} (h : e ∈ State.reset.engines.toList) : e = none := by
  simpa [State.reset, State.resetValues] using h

theorem State.mem_reset_ports {u : PortUnit} (h : u ∈ State.reset.ports.toList) : u = portReset := by
  simpa [State.reset_ports] using h

/-! ### What is derived from them -/

/-- No window is OPEN, so no cell of the pool is consumed (R19). -/
theorem State.reset_consumed : consumed State.reset.windows = 0 := by
  simp [consumed, State.reset, State.resetValues]

/-- Neither the TEST key nor the remote test flag asks for the panel test (R157). -/
theorem State.reset_panelTest : State.reset.panelTest = false := rfl

/-- A lamp is dark where no panel test shows and no record names it (R130). -/
theorem State.lamp_of_no_alert {s : State} (ht : s.panelTest = false) (ha : s.alerts = []) (l : LampId) :
    s.lamp l = .off := by
  simp [State.lamp, ht, ha]

/-- The sounder has no source where there is no panel test, no record and no chime (R138). -/
theorem State.selectSource_of_silent {s : State} (ht : s.panelTest = false) (ha : s.alerts = [])
    (hc : s.chimes = []) : s.selectSource = none := by
  have hs : soundingAlert s.alerts = none := by rw [ha]; rfl
  simp [State.selectSource, ht, hs, hc]

/-- Without a pattern the sounder is silent (R142). -/
theorem State.sounder_of_no_pattern {s : State} (h : s.pattern = none) : s.sounder = .silence := by
  simp [State.sounder, h]

/-! ### The laws of the windows and the ports -/

theorem State.reset_windowsOk : State.reset.windowsOk = true :=
  List.all_eq_true.mpr fun e he => by rw [State.mem_reset_windows he]

theorem State.reset_levelsOk : State.reset.levelsOk = true :=
  List.all_eq_true.mpr fun i _ => by rw [State.reset_windows_get]

theorem State.reset_poolOk : State.reset.poolOk = true := by
  simp [State.poolOk, State.reset_consumed]

/-- A DETACHED unit with nothing buffered or queued keeps the laws of a Port Unit. -/
theorem portReset_ok : portReset.ok = true := by decide

theorem State.reset_portsOk : State.reset.portsOk = true :=
  List.all_eq_true.mpr fun u hu => by rw [State.mem_reset_ports hu, portReset_ok]

theorem State.reset_waitsOk : State.reset.waitsOk = true :=
  List.all_eq_true.mpr fun u hu => by rw [State.mem_reset_ports hu]; rfl

/-! ### The laws of the drive -/

/-- No engine is busy. -/
theorem State.reset_anyBusy : State.reset.anyBusy = false :=
  List.any_eq_false.mpr fun e he => by simp [State.mem_reset_engines he]

theorem State.reset_jobOk (e : EngineId) : State.reset.jobOk e = true := by
  simp only [State.jobOk, State.reset_engines_get]

/-- No tile is driven, for every tile is UNKNOWN. -/
theorem State.reset_drivenOk : State.reset.drivenOk = true :=
  List.all_eq_true.mpr fun n _ => by
    have hn : State.reset.tiles[n].state ≠ .driving := by rw [State.reset_tiles_get]; decide
    rw [decide_eq_true hn, Bool.true_or]

theorem State.reset_countsOk : State.reset.countsOk = true := by
  have htiles : tileIds.all (fun n => decide (State.reset.tiles[n].partialCount ≤ 16)) = true :=
    List.all_eq_true.mpr fun n _ => by rw [State.reset_tiles_get]; rfl
  rw [State.countsOk, htiles, Bool.true_and]
  exact List.all_eq_true.mpr fun e he => by rw [State.mem_reset_engines he]

theorem State.reset_driveOk : State.reset.driveOk = true := by
  have hjobs : engineIds.all State.reset.jobOk = true :=
    List.all_eq_true.mpr fun e _ => State.reset_jobOk e
  have hapart : State.reset.jobsApart = true := rfl
  simp [State.driveOk, hjobs, hapart, State.reset_drivenOk, State.reset_countsOk, State.busyOk,
    State.reset_anyBusy]

/-- Every tile is UNKNOWN, and its panel values are (R47). -/
theorem State.reset_tileOk (n : TileId) : State.reset.tileOk n = true := by
  simp only [State.tileOk, State.reset_tiles_get, State.reset_panel_get, tileReset, decide_true]

theorem State.reset_tilesOk : State.reset.tilesOk = true :=
  List.all_eq_true.mpr fun n _ => State.reset_tileOk n

/-- RISING asks nothing of the waiting tiles; the rise timer, the attempts and the hold setting are in range. -/
theorem State.reset_railOk : State.reset.railOk = true := rfl

/-! ### The laws of the sounder, and every law -/

theorem State.reset_tonesOk : State.reset.tonesOk = true := by decide

theorem State.reset_soundOk : State.reset.soundOk = true := by
  rw [State.soundOk, State.selectSource_of_silent State.reset_panelTest rfl rfl]
  rfl

/-- The laws whose fields hold plain values are evaluated; the others are the lemmas above. -/
theorem State.reset_ok : State.reset.ok = true := by
  have htime : State.reset.time.ok = true := rfl
  have halerts : State.reset.alertsOk = true := rfl
  have hsupervisor : State.reset.supervisorOk = true := rfl
  have hrefresh : State.reset.refreshOk = true := rfl
  have hsecond : State.reset.secondOk = true := rfl
  have hchimes : State.reset.chimesOk = true := rfl
  have hkeys : State.reset.keys.ok = true := rfl
  have hband : State.reset.bandOk = true := rfl
  simp only [State.ok, htime, State.reset_windowsOk, State.reset_levelsOk, State.reset_poolOk, halerts,
    State.reset_portsOk, hsupervisor, State.reset_waitsOk, State.reset_driveOk, State.reset_tilesOk,
    State.reset_railOk, hrefresh, hsecond, State.reset_tonesOk, hchimes, State.reset_soundOk, hkeys, hband,
    Bool.and_self]

/-- Settles O3: the laws by `State.reset_ok`, the tables by their values at an index, the lamps and the sounder
by the empty list and the absent pattern; every other value is the one its field was given. -/
theorem resetValues : Obligations.ResetValues := by
  unfold Obligations.ResetValues
  have hfree : State.reset.freeCells = 1024 := by rw [State.freeCells, State.reset_consumed]
  have hlamp (l : LampId) : State.reset.lamp l = .off := State.lamp_of_no_alert State.reset_panelTest rfl l
  have hsounder : State.reset.sounder = .silence := State.sounder_of_no_pattern rfl
  exact ⟨State.reset_ok, rfl, rfl, rfl, State.reset_windows_get, hfree,
    fun n => ⟨State.reset_tiles_get n, State.reset_panel_get n⟩, State.reset_engines_get,
    rfl, rfl, rfl, rfl, rfl, rfl, rfl, rfl, rfl, rfl, rfl, rfl, rfl, rfl, rfl, rfl,
    State.reset_ports_get, hlamp, hsounder⟩

end Sys2Proof.Machine
end

section
/-!
PROOF. Composition reads a window only through what it offers a cell: whether it takes part there, its level and its
value (R5). So a change of the windows leaves the composed values of the tiles that no changed window touches, and a
change of the banner leaves those below its band.
-/

namespace Sys2Proof.Machine

/-! ### What a window offers a cell (R5) -/

/-- The level of a window and its value for a cell of the panel that it covers. -/
def Window.bid (row col : Nat) (w : Window) : Nat × CellValue :=
  (w.level, w.shown.getD ((row - w.row) * w.width + (col - w.col)) background)

/-- The window takes part at a cell of the panel with its bid, or not at all. -/
def Window.offer (row col : Nat) (w : Window) : Option (Nat × CellValue) :=
  if w.visible && w.rect.holds row col then some (w.bid row col) else none

/-- What an entry of the window table offers a cell. -/
def offerOf (row col : Nat) (e : Option Window) : Option (Nat × CellValue) := e.bind (Window.offer row col)

/-- The better of two offers: the higher level, and of one level the one met first. -/
def betterOffer (best new : Option (Nat × CellValue)) : Option (Nat × CellValue) :=
  match new, best with
  | none, _ => best
  | some x, none => some x
  | some x, some b => if b.1 < x.1 then some x else best

/-- One entry of the window table in `topWindow`'s search. -/
def betterWindow (row col : Nat) (best e : Option Window) : Option Window :=
  match e with
  | some w =>
    if w.visible && w.rect.holds row col then
      match best with
      | none => some w
      | some b => if b.level < w.level then some w else best
    else best
  | none => best

theorem topWindow_eq_foldl (ws : List (Option Window)) (row col : Nat) :
    topWindow ws row col = ws.foldl (betterWindow row col) none := rfl

theorem betterWindow_bid (row col : Nat) (best e : Option Window) :
    (betterWindow row col best e).map (Window.bid row col) =
      betterOffer (best.map (Window.bid row col)) (offerOf row col e) := by
  cases e with
  | none => rfl
  | some w =>
    by_cases hw : (w.visible && w.rect.holds row col) = true
    · simp only [betterWindow, offerOf, Option.bind_some, Window.offer, hw, if_true]
      cases best with
      | none => rfl
      | some b =>
        simp only [betterOffer, Option.map_some, Window.bid]
        split_ifs <;> rfl
    · simp only [betterWindow, offerOf, Option.bind_some, Window.offer, hw]
      rfl

theorem foldl_betterWindow_bid (row col : Nat) (ws : List (Option Window)) (best : Option Window) :
    (ws.foldl (betterWindow row col) best).map (Window.bid row col) =
      (ws.map (offerOf row col)).foldl betterOffer (best.map (Window.bid row col)) := by
  induction ws generalizing best with
  | nil => rfl
  | cons e ws ih => rw [List.foldl_cons, List.map_cons, List.foldl_cons, ih, betterWindow_bid]

/-- The value of a window cell is that of the best offer, or background (R4, R5). -/
theorem windowCell_eq_offers (ws : List (Option Window)) (row col : Nat) :
    windowCell ws row col =
      (((ws.map (offerOf row col)).foldl betterOffer none).map Prod.snd).getD background := by
  have h := foldl_betterWindow_bid row col ws none
  rw [Option.map_none] at h
  rw [← h, windowCell, topWindow_eq_foldl]
  cases ws.foldl (betterWindow row col) none <;> rfl

/-- Window tables that offer a cell the same give it the same value. -/
theorem windowCell_congr {ws vs : Vector (Option Window) 16} {row col : Nat}
    (h : ∀ i : WindowId, offerOf row col vs[i] = offerOf row col ws[i]) :
    windowCell vs.toList row col = windowCell ws.toList row col := by
  have hmap : vs.toList.map (offerOf row col) = ws.toList.map (offerOf row col) := by
    refine List.ext_getElem (by simp) fun i hi _ => ?_
    simpa using h ⟨i, by simpa using hi⟩
  rw [windowCell_eq_offers, windowCell_eq_offers, hmap]

/-- A window offers nothing to the cells of a tile that its rectangle does not touch (R2). -/
theorem Window.offer_of_not_touches {w : Window} {n : TileId} (h : w.rect.touches n = false) {k : Nat} (hk : k < 8) :
    w.offer (tileRow n) (tileCol n + k) = none := by
  have hh : w.rect.holds (tileRow n) (tileCol n + k) = false := by
    simp only [Rect.touches, Rect.meets, Rect.holds, decide_eq_false_iff_not] at h ⊢
    omega
  rw [Window.offer, hh, Bool.and_false]
  rfl

/-- Windows that agree in visibility, place, level and shown content offer a cell the same. -/
theorem Window.offer_congr {v w : Window} (hv : v.visible = w.visible) (hr : v.rect = w.rect)
    (hl : v.level = w.level) (hs : v.shown = w.shown) (row col : Nat) : v.offer row col = w.offer row col := by
  have hrow : v.row = w.row := congrArg Rect.row hr
  have hcol : v.col = w.col := congrArg Rect.col hr
  have hwidth : v.width = w.width := congrArg Rect.width hr
  simp only [Window.offer, Window.bid, hv, hr, hl, hs, hrow, hcol, hwidth]

/-! ### Composed tiles -/

/-- Two views compose a tile alike where they compose its cells alike. -/
theorem View.tile_congr {v w : View} {n : TileId}
    (h : ∀ k < 8, v.composed (tileRow n) (tileCol n + k) = w.composed (tileRow n) (tileCol n + k)) :
    v.tile n = w.tile n := by
  unfold View.tile
  simp only [h 0 (by decide), h 1 (by decide), h 2 (by decide), h 3 (by decide), h 4 (by decide), h 5 (by decide),
    h 6 (by decide), h 7 (by decide)]

/-- Where only the windows differ, a tile is composed alike if the tables offer its cells the same. -/
theorem View.tile_of_windows {s u : State} (ht : u.panelTest = s.panelTest) (hb : u.blank = s.blank)
    (ha : u.alerts = s.alerts) (hh : u.bandHeight = s.bandHeight) (hp : u.time.phase = s.time.phase) {n : TileId}
    (hw : ∀ k < 8, ∀ i : WindowId, offerOf (tileRow n) (tileCol n + k) u.windows[i] =
      offerOf (tileRow n) (tileCol n + k) s.windows[i]) : u.view.tile n = s.view.tile n :=
  View.tile_congr fun k hk => by
    unfold View.composed View.selected State.view
    rw [ht, hb, ha, hh, hp, windowCell_congr (hw k hk)]

/-- The height of a band is the band height (R123). -/
theorem bandOf_height {l : List Alert} {h : Nat} {b : Band} (hb : bandOf l h = some b) : b.height = h := by
  unfold bandOf at hb
  split at hb
  · exact absurd hb (by simp)
  · rw [← Option.some.inj hb]

/-- Below row 1 the banner supplies no cell, at a band height of 1 or 2 (R120, R123). -/
theorem State.selected_below_band (s : State) (hs : s.bandOk = true) {row : Nat} (hr : 2 ≤ row) (col : Nat) :
    s.view.selected row col = if s.panelTest then fullBlock else if s.blank then background
      else windowCell s.windows.toList row col := by
  have hh : s.bandHeight ≤ 2 := by
    have h : s.bandHeight = 1 ∨ s.bandHeight = 2 := of_decide_eq_true hs
    omega
  unfold View.selected State.view
  simp only
  cases hb : bandOf s.alerts s.bandHeight with
  | none => rfl
  | some b =>
    have hlow : ¬row < b.height := by
      rw [bandOf_height hb]
      omega
    simp only [hlow, if_false]

/-- Where only the records and the band height differ, the tiles below row 1 are composed alike. -/
theorem View.tile_of_band {s u : State} (ht : u.panelTest = s.panelTest) (hb : u.blank = s.blank)
    (hw : u.windows = s.windows) (hp : u.time.phase = s.time.phase) (hs : s.bandOk = true) (hu : u.bandOk = true)
    {n : TileId} (hn : 2 ≤ tileRow n) : u.view.tile n = s.view.tile n :=
  View.tile_congr fun k _ => by
    rw [View.composed, View.composed, u.selected_below_band hu hn, s.selected_below_band hs hn, ht, hb, hw]
    simp only [State.view, hp]

end Sys2Proof.Machine
end

section
/-!
PROOF. The laws on the drive as propositions: what `driveOk` and `tilesOk` say of engines, jobs and tile records
(`State.DriveAgrees`, `TileRec.truthful`), what an operation must read and leave for them to go on, and that one
handing, the end of one job, and a set of reports keep them.
-/

namespace Sys2Proof.Machine

/-! ### Tables at an index -/

theorem vector_set_get {α : Type} {k : Nat} (v : Vector α k) (i j : Fin k) (x : α) :
    (v.set i x)[j] = if j = i then x else v[j] := by
  by_cases h : j = i
  · subst h
    simp
  · have hne : (i : Nat) ≠ j := fun e => h (Fin.ext e.symm)
    simp [h, Vector.getElem_set_ne, hne]

theorem vector_all_iff {α : Type} {k : Nat} (v : Vector α k) (p : α → Bool) :
    v.toList.all p = true ↔ ∀ i : Fin k, p v[i] = true := by
  rw [List.all_eq_true]
  constructor
  · intro h i
    exact h _ (by simp [Vector.mem_toList_iff])
  · intro h x hx
    rw [Vector.mem_toList_iff, Vector.mem_iff_getElem] at hx
    obtain ⟨i, hi, rfl⟩ := hx
    exact h ⟨i, hi⟩

theorem vector_any_iff {α : Type} {k : Nat} (v : Vector α k) (p : α → Bool) :
    v.toList.any p = true ↔ ∃ i : Fin k, p v[i] = true := by
  rw [List.any_eq_true]
  constructor
  · rintro ⟨x, hx, hp⟩
    rw [Vector.mem_toList_iff, Vector.mem_iff_getElem] at hx
    obtain ⟨i, hi, rfl⟩ := hx
    exact ⟨⟨i, hi⟩, hp⟩
  · rintro ⟨i, hp⟩
    exact ⟨_, by simp [Vector.mem_toList_iff], hp⟩

/-! ### Engines, jobs and tile records (R46, R51, R52, R61) -/

/-- What `driveOk` says: a job's frames are within its waveform, its tile is DRIVING and no other engine's, every
DRIVING tile is some job's, engines are free while the rail is not ON, and the partial counts keep R53. -/
structure State.DriveAgrees (s : State) : Prop where
  frames : ∀ (e : EngineId) (j : Job), s.engines[e] = some j → j.frames ≤ j.waveform.length
  driving : ∀ (e : EngineId) (j : Job), s.engines[e] = some j → s.tiles[j.tile].state = .driving
  apart : ∀ (d e : EngineId) (i j : Job), s.engines[d] = some i → s.engines[e] = some j → i.tile = j.tile → d = e
  held : ∀ n : TileId, s.tiles[n].state = .driving → ∃ (e : EngineId) (j : Job), s.engines[e] = some j ∧ j.tile = n
  busy : s.railOn = false → ∀ e : EngineId, s.engines[e] = none
  counts : ∀ n : TileId, s.tiles[n].partialCount ≤ 16
  partials : ∀ (e : EngineId) (j : Job), s.engines[e] = some j →
    j.waveform = .fullDrive ∨ s.tiles[j.tile].partialCount < 16

theorem State.jobOk_iff (s : State) (e : EngineId) : s.jobOk e = true ↔
    ∀ j, s.engines[e] = some j → j.frames ≤ j.waveform.length ∧ s.tiles[j.tile].state = .driving := by
  unfold State.jobOk
  cases s.engines[e] <;> simp

theorem State.jobsApart_iff (s : State) : s.jobsApart = true ↔
    ∀ (d e : EngineId) (i j : Job), s.engines[d] = some i → s.engines[e] = some j → i.tile = j.tile → d = e := by
  have hnodup : s.jobsApart = true ↔ ∀ (a b : Nat) (ha : a < 4) (hb : b < 4), a < b →
      ∀ i j, s.engines[a] = some i → s.engines[b] = some j → i.tile ≠ j.tile := by
    rw [State.jobsApart, decide_eq_true_iff, List.Nodup, List.pairwise_filterMap, List.pairwise_iff_getElem]
    simp only [Vector.length_toList, Vector.getElem_toList, Option.map_eq_some_iff]
    constructor
    · intro h a b ha hb hlt i j hi hj
      exact h a b ha hb hlt _ ⟨i, hi, rfl⟩ _ ⟨j, hj, rfl⟩
    · rintro h a b ha hb hlt _ ⟨i, hi, rfl⟩ _ ⟨j, hj, rfl⟩
      exact h a b ha hb hlt i j hi hj
  rw [hnodup]
  constructor
  · intro h d e i j hi hj hij
    rcases lt_trichotomy d e with hlt | heq | hgt
    · exact absurd hij (h d e d.isLt e.isLt hlt i j hi hj)
    · exact heq
    · exact absurd hij.symm (h e d e.isLt d.isLt hgt j i hj hi)
  · intro h a b ha hb hlt i j hi hj hij
    have heq := h ⟨a, ha⟩ ⟨b, hb⟩ i j hi hj hij
    exact absurd (congrArg Fin.val heq) hlt.ne

theorem State.anyBusy_false (s : State) : s.anyBusy = false ↔ ∀ e : EngineId, s.engines[e] = none := by
  rw [Bool.eq_false_iff, State.anyBusy, ne_eq, vector_any_iff]
  simp

theorem State.drivenOk_iff (s : State) : s.drivenOk = true ↔ ∀ n : TileId, s.tiles[n].state = .driving →
    ∃ (e : EngineId) (j : Job), s.engines[e] = some j ∧ j.tile = n := by
  simp only [State.drivenOk, List.all_eq_true, mem_tileIds, forall_const, Bool.or_eq_true, decide_eq_true_eq]
  refine forall_congr' fun n => ?_
  rw [vector_any_iff, ne_eq, ← Decidable.imp_iff_not_or]
  refine imp_congr_right fun _ => exists_congr fun e => ?_
  cases s.engines[e] <;> simp

theorem State.countsOk_iff (s : State) : s.countsOk = true ↔ (∀ n : TileId, s.tiles[n].partialCount ≤ 16) ∧
    ∀ (e : EngineId) (j : Job), s.engines[e] = some j →
      j.waveform = .fullDrive ∨ s.tiles[j.tile].partialCount < 16 := by
  rw [State.countsOk, Bool.and_eq_true, vector_all_iff]
  refine and_congr (by simp [mem_tileIds]) (forall_congr' fun e => ?_)
  cases s.engines[e] <;> simp

theorem State.driveOk_iff (s : State) : s.driveOk = true ↔ s.DriveAgrees := by
  have hjobs : engineIds.all s.jobOk = true ↔ ∀ (e : EngineId) (j : Job), s.engines[e] = some j →
      j.frames ≤ j.waveform.length ∧ s.tiles[j.tile].state = .driving := by
    simp [engineIds, State.jobOk_iff]
  have hbusy : s.busyOk = true ↔ (s.railOn = false → ∀ e : EngineId, s.engines[e] = none) := by
    rw [← State.anyBusy_false, State.busyOk]
    cases s.railOn <;> simp
  rw [State.driveOk, Bool.and_eq_true, Bool.and_eq_true, Bool.and_eq_true, Bool.and_eq_true, hjobs,
    State.jobsApart_iff, State.drivenOk_iff, hbusy, State.countsOk_iff]
  constructor
  · rintro ⟨⟨⟨⟨hj, ha⟩, hd⟩, hb⟩, hc, hp⟩
    exact ⟨fun e j h => (hj e j h).1, fun e j h => (hj e j h).2, ha, hd, hb, hc, hp⟩
  · intro h
    exact ⟨⟨⟨⟨fun e j he => ⟨h.frames e j he, h.driving e j he⟩, h.apart⟩, h.held⟩, h.busy⟩, h.counts, h.partials⟩

/-! ### What a tile record says (R47) -/

/-- The record says what R47 gives its state, of a tile that is stale or not and whose panel values are unknown or
not. -/
def TileRec.truthful (stale blind : Bool) (r : TileRec) : Bool :=
  match r.state with
  | .settled => !stale && !r.fullDue
  | .pending _ => stale || r.fullDue
  | .unknown _ => blind
  | .driving => true

theorem State.tileOk_eq_truthful (s : State) (n : TileId) :
    s.tileOk n = s.tiles[n].truthful (tileStale s.view s.panel n) (decide (s.panel[n] = unknownCells)) := rfl

/-- A stale-tile report makes the record say what the new composed values are (R49). -/
theorem TileRec.truthful_report {r : TileRec} {was blind : Bool} (h : r.truthful was blind = true) (stamp : Stamp)
    (stale : Bool) : (r.report stamp stale).truthful stale blind = true := by
  obtain ⟨st, c, due⟩ := r
  cases st with
  | settled => cases stale <;> simp_all [TileRec.truthful, TileRec.report]
  | pending a => cases stale <;> cases due <;> simp_all [TileRec.truthful, TileRec.report]
  | unknown a => simpa [TileRec.truthful, TileRec.report] using h
  | driving => simp [TileRec.truthful, TileRec.report]

/-- A mark makes a tile wait for a FULL drive (R65, R69). -/
theorem TileRec.truthful_markFull {r : TileRec} {stale blind : Bool} (h : r.truthful stale blind = true)
    (stamp : Stamp) : (r.markFull stamp).truthful stale blind = true := by
  obtain ⟨st, c, due⟩ := r
  cases st <;> simp_all [TileRec.truthful, TileRec.markFull]

/-- The state a tile takes at the completion of its job is the one R57 gives. -/
theorem TileRec.truthful_completed (r : TileRec) (stamp : Stamp) (stale blind : Bool) :
    (r.completed stamp stale).truthful stale blind = true := by
  obtain ⟨st, c, due⟩ := r
  cases stale <;> cases due <;> rfl

theorem TileRec.report_driving (r : TileRec) (stamp : Stamp) (stale : Bool) :
    (r.report stamp stale).state = .driving ↔ r.state = .driving := by
  obtain ⟨st, c, due⟩ := r
  cases st with
  | settled => cases stale <;> simp [TileRec.report]
  | pending a => cases stale <;> cases due <;> simp [TileRec.report]
  | unknown a => simp [TileRec.report]
  | driving => simp [TileRec.report]

theorem TileRec.markFull_driving (r : TileRec) (stamp : Stamp) :
    (r.markFull stamp).state = .driving ↔ r.state = .driving := by
  obtain ⟨st, c, due⟩ := r
  cases st <;> simp [TileRec.markFull]

/-! ### The picture: tiles true of panel and composition, engines and tiles agreed -/

/-- The laws on tiles and engines, without what the rail and the arbiter answer to them. -/
structure State.PictureOk (s : State) : Prop where
  band : s.bandOk = true
  drive : s.DriveAgrees
  tiles : ∀ n : TileId, s.tileOk n = true

theorem State.tilesOk_iff (s : State) : s.tilesOk = true ↔ ∀ n : TileId, s.tileOk n = true := by
  simp [State.tilesOk, mem_tileIds]

theorem State.bandOk_of_height {s t : State} (h : t.bandHeight = s.bandHeight) : t.bandOk = s.bandOk := by
  unfold State.bandOk
  rw [h]

/-- The laws on engines and tiles read these alone, and of the rail whether it is ON. -/
theorem State.DriveAgrees.of_eq {s t : State} (h : s.DriveAgrees) (he : t.engines = s.engines)
    (ht : t.tiles = s.tiles) (hr : t.railOn = s.railOn) : t.DriveAgrees := by
  obtain ⟨frames, driving, apart, held, busy, counts, partials⟩ := h
  constructor <;> simp only [he, ht, hr] <;> assumption

theorem State.tileOk_of_eq {s t : State} {n : TileId} (hv : t.view.tile n = s.view.tile n) (hp : t.panel = s.panel)
    (ht : t.tiles = s.tiles) : t.tileOk n = s.tileOk n := by
  rw [State.tileOk_eq_truthful, State.tileOk_eq_truthful, tileStale, tileStale, hv, hp, ht]

theorem State.PictureOk.of_composed {s t : State} (h : s.PictureOk) (hv : ∀ n, t.view.tile n = s.view.tile n)
    (hp : t.panel = s.panel) (ht : t.tiles = s.tiles) (he : t.engines = s.engines) (hr : t.railOn = s.railOn)
    (hb : t.bandHeight = s.bandHeight) : t.PictureOk where
  band := (State.bandOk_of_height hb).trans h.band
  drive := h.drive.of_eq he ht hr
  tiles n := (State.tileOk_of_eq (hv n) hp ht).trans (h.tiles n)

theorem State.PictureOk.of_eq {s t : State} (h : s.PictureOk) (hv : t.view = s.view) (hp : t.panel = s.panel)
    (ht : t.tiles = s.tiles) (he : t.engines = s.engines) (hr : t.railOn = s.railOn)
    (hb : t.bandHeight = s.bandHeight) : t.PictureOk :=
  h.of_composed (fun n => by rw [hv]) hp ht he hr hb

/-- Tile records that agree on which tiles are DRIVING and on the partial counts. -/
theorem State.DriveAgrees.of_tiles {s t : State} (h : s.DriveAgrees) (he : t.engines = s.engines)
    (hr : t.railOn = s.railOn) (hd : ∀ n : TileId, t.tiles[n].state = .driving ↔ s.tiles[n].state = .driving)
    (hc : ∀ n : TileId, t.tiles[n].partialCount = s.tiles[n].partialCount) : t.DriveAgrees where
  frames := by simpa only [he] using h.frames
  driving := by simpa only [he, hd] using h.driving
  apart := by simpa only [he] using h.apart
  held := by simpa only [he, hd] using h.held
  busy := by simpa only [he, hr] using h.busy
  counts := by simpa only [hc] using h.counts
  partials := by simpa only [he, hc] using h.partials

/-! ### A set of reports -/

/-- The Compositor takes an event that changed the composed values of no tile outside `ns`: every tile record is
true of what is composed after it (R11, R12, R49). `u` is the state the event left. -/
theorem State.PictureOk.compositorEvent {s u : State} (h : s.PictureOk) (hp : u.panel = s.panel)
    (ht : u.tiles = s.tiles) (he : u.engines = s.engines) (hr : u.railOn = s.railOn) (hb : u.bandOk = true)
    {ns : List TileId} (hd : ns.Nodup) (hv : ∀ n, n ∉ ns → u.view.tile n = s.view.tile n) :
    (u.compositorEvent s.view ns).PictureOk := by
  have hreported (n : TileId) : (u.compositorEvent s.view ns).tiles[n] =
      if s.view.tile n = u.view.tile n then s.tiles[n]
      else s.tiles[n].report u.now (tileStale u.view s.panel n) := by
    by_cases hn : n ∈ ns
    · rw [u.compositorEvent_tile_mem s.view hd hn, ht, hp]
    · rw [u.compositorEvent_tile_other s.view hn, if_pos (hv n hn).symm, ht]
  refine ⟨hb, h.drive.of_tiles he hr (fun n => ?_) fun n => ?_, fun n => ?_⟩
  · rw [hreported]
    split_ifs
    · rfl
    · exact TileRec.report_driving _ _ _
  · rw [hreported]
    split_ifs
    · rfl
    · exact (TileRec.report_kept _ _ _).1
  · have hn := h.tiles n
    rw [State.tileOk_eq_truthful] at hn ⊢
    rw [hreported, State.compositorEvent_panel, hp, show (u.compositorEvent s.view ns).view = u.view from rfl]
    split_ifs with hsame
    · have hstale : tileStale u.view s.panel n = tileStale s.view s.panel n := by
        rw [tileStale, tileStale, hsame]
      rwa [hstale]
    · exact TileRec.truthful_report hn _ _

/-! ### Jobs that start and end -/

theorem TileRec.since_driving {r : TileRec} (h : r.state = .driving) : r.since = none := by
  unfold TileRec.since
  rw [h]

/-- Before a handing the tile waits, and after it the engine drives it (R54). -/
theorem State.PictureOk.startJob {s : State} (h : s.PictureOk) (hr : s.railOn = true) {e : EngineId}
    (he : s.engines[e] = none) {n : TileId} {a : Stamp} (hn : s.tiles[n].since = some a) :
    (s.startJob e n).PictureOk := by
  have hidle : s.tiles[n].state ≠ .driving := fun hd =>
    Option.some_ne_none a (hn.symm.trans (TileRec.since_driving hd))
  have hengine (d : EngineId) : (s.startJob e n).engines[d] =
      if d = e then some ⟨n, s.tiles[n].waveform, s.view.tile n, s.tiles[n].waveform.length⟩ else s.engines[d] :=
    vector_set_get _ _ _ _
  have htile (m : TileId) : (s.startJob e n).tiles[m] =
      if m = n then { s.tiles[n] with state := .driving } else s.tiles[m] := vector_set_get _ _ _ _
  have hother {d : EngineId} {j : Job} (hj : s.engines[d] = some j) : j.tile ≠ n := fun hjn =>
    hidle (hjn ▸ h.drive.driving d j hj)
  have hpartial : s.tiles[n].waveform = .fullDrive ∨ s.tiles[n].partialCount < 16 := by
    rw [TileRec.waveform_eq hn]
    have hle := h.drive.counts n
    split_ifs with hfull
    · exact Or.inl rfl
    · exact Or.inr (lt_of_le_of_ne hle fun h16 => hfull (Or.inr (Or.inl h16)))
  refine ⟨h.band, ⟨fun d j hj => ?_, fun d j hj => ?_, fun c d i j hi hj hij => ?_, fun m hm => ?_, fun hoff => ?_,
    fun m => ?_, fun d j hj => ?_⟩, fun m => ?_⟩
  · rw [hengine] at hj
    split_ifs at hj
    · obtain rfl := Option.some.inj hj
      exact le_rfl
    · exact h.drive.frames d j hj
  · rw [hengine] at hj
    rw [htile]
    split_ifs at hj with hde
    · obtain rfl := Option.some.inj hj
      exact congrArg TileRec.state (if_pos rfl)
    · rw [if_neg (hother hj)]
      exact h.drive.driving d j hj
  · rw [hengine] at hi hj
    split_ifs at hi hj with hc hd hd
    · rw [hc, hd]
    · obtain rfl := Option.some.inj hi
      exact absurd hij.symm (hother hj)
    · obtain rfl := Option.some.inj hj
      exact absurd hij (hother hi)
    · exact h.drive.apart c d i j hi hj hij
  · rw [htile] at hm
    split_ifs at hm with hmn
    · exact ⟨e, _, (hengine e).trans (if_pos rfl), hmn.symm⟩
    · obtain ⟨d, j, hj, hjm⟩ := h.drive.held m hm
      have hde : d ≠ e := fun hde => by simp [hde, he] at hj
      exact ⟨d, j, ((hengine d).trans (if_neg hde)).trans hj, hjm⟩
  · exact absurd (hr.symm.trans hoff) (by decide)
  · rw [htile]
    split_ifs
    · exact h.drive.counts n
    · exact h.drive.counts m
  · rw [hengine] at hj
    rw [htile]
    split_ifs at hj
    · obtain rfl := Option.some.inj hj
      simpa using hpartial
    · rw [if_neg (hother hj)]
      exact h.drive.partials d j hj
  · have hm := h.tiles m
    rw [State.tileOk_eq_truthful] at hm ⊢
    rw [htile]
    split_ifs
    · rfl
    · exact hm

/-- An engine becomes free: its tile takes a record `r` that is not DRIVING and is true of the panel values `cells`
that the job's end leaves (R56, R57, R59). -/
theorem State.PictureOk.endJob {s : State} (h : s.PictureOk) {e : EngineId} {j : Job} (hj : s.engines[e] = some j)
    {r : TileRec} {cells : Vector (Option CellValue) 8} (hd : r.state ≠ .driving) (hc : r.partialCount ≤ 16)
    (ht : r.truthful (decide (cells ≠ known (s.view.tile j.tile))) (decide (cells = unknownCells)) = true) :
    ({ s with
      engines := s.engines.set e none
      panel := s.panel.set j.tile cells
      tiles := s.tiles.set j.tile r } : State).PictureOk := by
  have hleft {d : EngineId} {i : Job} (hi : (s.engines.set e none)[d] = some i) : d ≠ e ∧ s.engines[d] = some i := by
    rw [vector_set_get] at hi
    split_ifs at hi with hde
    exact ⟨hde, hi⟩
  have hother {d : EngineId} {i : Job} (hi : (s.engines.set e none)[d] = some i) : i.tile ≠ j.tile := fun hij =>
    (hleft hi).1 (h.drive.apart d e i j (hleft hi).2 hj hij)
  refine ⟨h.band, ⟨fun d i hi => h.drive.frames d i (hleft hi).2, fun d i hi => ?_,
    fun c d i k hi hk => h.drive.apart c d i k (hleft hi).2 (hleft hk).2, fun m hm => ?_, fun hoff d => ?_,
    fun m => ?_, fun d i hi => ?_⟩, fun m => ?_⟩
  · rw [vector_set_get, if_neg (hother hi)]
    exact h.drive.driving d i (hleft hi).2
  · rw [vector_set_get] at hm
    split_ifs at hm with hmj
    · exact absurd hm hd
    · obtain ⟨d, i, hi, him⟩ := h.drive.held m hm
      have hde : d ≠ e := fun hde => hmj (by
        rw [hde, hj] at hi
        rw [← him, Option.some.inj hi])
      exact ⟨d, i, by rw [vector_set_get, if_neg hde, hi], him⟩
  · rw [vector_set_get]
    split_ifs
    · rfl
    · exact h.drive.busy hoff d
  · rw [vector_set_get]
    split_ifs
    · exact hc
    · exact h.drive.counts m
  · rw [vector_set_get, if_neg (hother hi)]
    exact h.drive.partials d i (hleft hi).2
  · have hm := h.tiles m
    rw [State.tileOk_eq_truthful] at hm ⊢
    rw [tileStale] at hm ⊢
    rw [vector_set_get, vector_set_get]
    split_ifs with hmj
    · rw [hmj]
      exact ht
    · exact hm

end Sys2Proof.Machine
end

section
/-!
PROOF. The drive's answer to an event keeps the laws: handings keep the picture, the look at the hold makes the rail
answer it, and so do the rail's rise and its reaching ON (R61, R77, R78, R81). Composition events and list events then
keep them too.
-/

namespace Sys2Proof.Machine

/-! ### The rail's law -/

/-- The laws on tiles, engines and rail together. -/
structure State.DriveLaws (s : State) : Prop extends State.PictureOk s where
  rail : s.railOk = true

theorem Rail.ok_iff (r : Rail) : r.ok = true ↔ (1 ≤ r.holdSetting ∧ r.holdSetting ≤ 60) ∧
    match r.state with
    | .off => r.attempts = 0
    | .rising n => n ≤ 4 ∧ r.attempts < 3
    | .on h => r.attempts = 0 ∧ ∀ n, h = some n → n ≤ 3840
    | .falling n => n ≤ 2 ∧ r.attempts = 0
    | .fault none => r.attempts = 3
    | .fault (some n) => n ≤ 320 ∧ 1 ≤ r.attempts ∧ r.attempts < 3 := by
  obtain ⟨st, k, hold⟩ := r
  cases st with
  | on h => cases h <;> simp [Rail.ok]
  | fault h => cases h <;> simp [Rail.ok]
  | _ => simp [Rail.ok]

theorem State.engineTaken_iff (s : State) : s.engineTaken ↔ (s.freeEngine.isNone || !s.anyWaiting) = true := by
  rw [State.engineTaken, ← State.freeEngine_none, Bool.or_eq_true, Option.isNone_iff_eq_none, Bool.not_eq_true']

/-- What `railOk` asks beside the ranges: in OFF no tile waits, and in ON no tile waits beside a free engine and the
hold timer runs exactly while none waits and no engine is busy (R61, R77, R81). -/
theorem State.railOk_iff (s : State) : s.railOk = true ↔ s.rail.ok = true ∧
    match s.rail.state with
    | .off => s.anyWaiting = false
    | .on h => s.engineTaken ∧ h.isSome = !(s.anyWaiting || s.anyBusy)
    | _ => True := by
  rw [State.railOk, Bool.and_eq_true, s.engineTaken_iff]
  cases s.rail.state <;> simp

theorem State.DriveLaws.railRange {s : State} (h : s.DriveLaws) : s.rail.ok = true := (s.railOk_iff.mp h.rail).1

theorem State.railOn_of_on {s : State} {h : Option Nat} (hr : s.rail.state = .on h) : s.railOn = true := by
  unfold State.railOn
  rw [hr]

theorem State.railOn_of_rail {s t : State} (h : t.rail.state = s.rail.state) : t.railOn = s.railOn := by
  unfold State.railOn
  rw [h]

/-- The rail is ON and answers the tiles and engines as R76 and R81 have it. -/
theorem State.railOk_of_holdAfter {t : State} {h : Option Nat} {k : Nat} (hr : t.rail = ⟨.on (t.holdAfter h), 0, k⟩)
    (hk : 1 ≤ k ∧ k ≤ 60) (hh : ∀ n, h = some n → n ≤ 3840) (he : t.engineTaken) : t.railOk = true := by
  have hset : t.rail.holdSetting = k := by rw [hr]
  rw [State.railOk_iff, Rail.ok_iff, hr]
  refine ⟨⟨hk, rfl, fun n hn => ?_⟩, he, ?_⟩
  · unfold State.holdAfter at hn
    rw [hset] at hn
    split_ifs at hn
    cases h with
    | none =>
      obtain rfl : k * 64 = n := Option.some.inj hn
      omega
    | some m =>
      obtain rfl : m = n := Option.some.inj hn
      exact hh m rfl
  · unfold State.holdAfter
    cases t.anyWaiting <;> cases t.anyBusy <;> rfl

/-! ### The laws read composition, panel, tiles, engines, rail and band height alone -/

theorem State.railOk_of_eq {s t : State} (ht : t.tiles = s.tiles) (he : t.engines = s.engines)
    (hr : t.rail = s.rail) : t.railOk = s.railOk := by
  unfold State.railOk State.anyWaiting State.anyBusy State.freeEngine
  rw [ht, he, hr]

theorem State.DriveLaws.of_composed {s t : State} (h : s.DriveLaws) (hv : ∀ n, t.view.tile n = s.view.tile n)
    (hp : t.panel = s.panel) (ht : t.tiles = s.tiles) (he : t.engines = s.engines) (hr : t.rail = s.rail)
    (hb : t.bandHeight = s.bandHeight) : t.DriveLaws where
  toPictureOk := h.toPictureOk.of_composed hv hp ht he (State.railOn_of_rail (congrArg Rail.state hr)) hb
  rail := (State.railOk_of_eq ht he hr).trans h.rail

theorem State.DriveLaws.of_eq {s t : State} (h : s.DriveLaws) (hv : t.view = s.view) (hp : t.panel = s.panel)
    (ht : t.tiles = s.tiles) (he : t.engines = s.engines) (hr : t.rail = s.rail)
    (hb : t.bandHeight = s.bandHeight) : t.DriveLaws :=
  h.of_composed (fun n => by rw [hv]) hp ht he hr hb

/-- The composed values read these fields alone. -/
theorem State.view_of_eq {s t : State} (ht : t.panelTest = s.panelTest) (hb : t.blank = s.blank)
    (ha : t.alerts = s.alerts) (hh : t.bandHeight = s.bandHeight) (hw : t.windows = s.windows)
    (hp : t.time.phase = s.time.phase) : t.view = s.view := by
  unfold State.view
  rw [ht, hb, ha, hh, hw, hp]

/-! ### The arbiter and the hold -/

theorem State.PictureOk.handOne {s : State} (h : s.PictureOk) : s.handOne.PictureOk := by
  unfold State.handOne
  split
  · next hr =>
    split
    · next e n he hn =>
      obtain ⟨a, ha, _⟩ := State.nextTile_of_chooseTile hn
      exact h.startJob hr (State.freeEngine_some he) ha
    · exact h
  · exact h

theorem State.PictureOk.arbiter {s : State} (h : s.PictureOk) : s.arbiter.PictureOk :=
  h.handOne.handOne.handOne.handOne

theorem State.checkHold_railOn (s : State) : s.checkHold.railOn = s.railOn := by
  cases hr : s.railOn with
  | true =>
    obtain ⟨h, hh⟩ := State.checkHold_rail_on hr
    rw [State.railOn, hh]
  | false =>
    have hsame : s.checkHold = s := by
      unfold State.railOn at hr
      unfold State.checkHold
      cases hs : s.rail.state <;> simp_all
    rw [hsame, hr]

theorem State.PictureOk.checkHold {s : State} (h : s.PictureOk) : s.checkHold.PictureOk :=
  h.of_eq (State.view_of_eq (by simp [State.panelTest]) (by simp) (by simp) (by simp) (by simp) (by simp)) (by simp)
    (by simp) (by simp) s.checkHold_railOn (by simp)

/-- While the rail is ON, the arbiter's handings and the look at the hold make the rail answer the picture. -/
theorem State.PictureOk.arbiter_checkHold {s : State} (h : s.PictureOk) {x : Option Nat} {k : Nat}
    (hr : s.rail = ⟨.on x, 0, k⟩) (hk : 1 ≤ k ∧ k ≤ 60) (hx : ∀ n, x = some n → n ≤ 3840) :
    s.arbiter.checkHold.DriveLaws where
  toPictureOk := h.arbiter.checkHold
  rail := by
    have hon : s.arbiter.rail.state = .on x := by rw [State.arbiter_rail, hr]
    have hrail := State.checkHold_rail hon
    rw [State.arbiter_rail, hr] at hrail
    exact State.railOk_of_holdAfter hrail hk hx
      (State.engineTaken_checkHold (State.arbiter_engineTaken (State.railOn_of_on (congrArg Rail.state hr))))

/-! ### Changes of the list -/

theorem ListOnly.panelTest {f : State → State} (hf : ListOnly f) (s : State) : (f s).panelTest = s.panelTest := by
  simp only [State.panelTest, hf.keys, hf.remoteTest]

/-- A change of the list and the banner derived again (R127). -/
theorem State.PictureOk.listChange {s : State} (h : s.PictureOk) {f : State → State} (hf : ListOnly f) :
    (s.listChange f).PictureOk := by
  have hband : (f s).bandOk = true := (State.bandOk_of_height (hf.bandHeight s)).trans h.band
  refine h.compositorEvent (hf.panel s) (hf.tiles s) (hf.engines s)
    (State.railOn_of_rail (congrArg Rail.state (hf.rail s))) hband bandTiles_nodup fun n hn => ?_
  rw [mem_bandTiles, not_lt] at hn
  exact View.tile_of_band (hf.panelTest s) (hf.blank s) (hf.windows s) (by rw [hf.time]) h.band hband hn

/-! ### The rail's rise -/

theorem State.PictureOk.setRail_on {s : State} (h : s.PictureOk) (x : Option Nat) : (s.setRail (.on x)).PictureOk where
  band := h.band
  drive := { h.drive with busy := fun hoff => absurd hoff (by simp [State.railOn]) }
  tiles := h.tiles

/-- The rail may take any state while every engine is free. -/
theorem State.PictureOk.of_rail {s : State} (h : s.PictureOk) (hfree : ∀ e : EngineId, s.engines[e] = none) (r : Rail) :
    ({ s with rail := r } : State).PictureOk where
  band := h.band
  drive := { h.drive with busy := fun _ => hfree }
  tiles := h.tiles

/-- The rail reaches ON (R78). -/
theorem State.PictureOk.reachOn {s : State} (h : s.PictureOk) (hk : 1 ≤ s.rail.holdSetting ∧ s.rail.holdSetting ≤ 60) :
    s.reachOn.DriveLaws := by
  have hattempts : (s.setAttempts 0).PictureOk := h.of_eq rfl rfl rfl rfl rfl rfl
  have hl := listOnly_clear .system driveFaultCode
  refine ((hattempts.listChange hl).setRail_on none).arbiter_checkHold (x := none) (k := s.rail.holdSetting) ?_ hk
    (by simp)
  rw [State.setRail_rail, State.listChange_rail _ hl]
  rfl

/-- The rail goes from a state that is not ON to RISING, and on to ON where power-good is asserted (R77, R80). -/
theorem State.PictureOk.enterRising {s : State} (h : s.PictureOk) (hoff : s.railOn = false)
    (hk : 1 ≤ s.rail.holdSetting ∧ s.rail.holdSetting ≤ 60) (ha : s.rail.attempts < 3) : s.enterRising.DriveLaws := by
  unfold State.enterRising
  split_ifs
  · exact h.reachOn hk
  · exact ⟨h.of_rail (h.drive.busy hoff) _, (State.railOk_iff _).mpr
      ⟨(Rail.ok_iff _).mpr ⟨hk, le_rfl, ha⟩, trivial⟩⟩

/-- The drive's answer to an event makes the rail answer the picture (R61, R77, R81). -/
theorem State.PictureOk.driveReact {s : State} (h : s.PictureOk) (hr : s.rail.ok = true) : s.driveReact.DriveLaws := by
  have hrange := s.rail.ok_iff.mp hr
  cases hs : s.rail.state with
  | off =>
    rw [hs] at hrange
    rw [State.driveReact_off hs]
    split_ifs with hw
    · exact h.enterRising (by rw [State.railOn, hs]) hrange.1 (by rw [hrange.2]; decide)
    · refine ⟨h, (State.railOk_iff _).mpr ⟨hr, ?_⟩⟩
      rw [hs]
      simpa using hw
  | on x =>
    rw [hs] at hrange
    rw [State.driveReact_on (State.railOn_of_on hs)]
    refine h.arbiter_checkHold (x := x) (k := s.rail.holdSetting) ?_ hrange.1 hrange.2.2
    rw [← hs, ← hrange.2.1]
  | _ =>
    have hsame : s.driveReact = s := by
      unfold State.driveReact
      rw [hs]
    rw [hsame]
    refine ⟨h, (State.railOk_iff _).mpr ⟨hr, ?_⟩⟩
    rw [hs]
    trivial

/-! ### Events -/

/-- A composition event that changed the composed values of no tile outside `ns`, and the drive's answer. -/
theorem State.DriveLaws.composed {s u : State} (h : s.DriveLaws) (hp : u.panel = s.panel) (ht : u.tiles = s.tiles)
    (he : u.engines = s.engines) (hr : u.rail = s.rail) (hb : u.bandOk = true) {ns : List TileId} (hd : ns.Nodup)
    (hv : ∀ n, n ∉ ns → u.view.tile n = s.view.tile n) : (u.composed s.view ns).DriveLaws :=
  (h.compositorEvent hp ht he (State.railOn_of_rail (congrArg Rail.state hr)) hb hd hv).driveReact
    (by rw [State.compositorEvent_rail, hr]; exact h.railRange)

/-- A composition event that re-evaluates every cell (R11). -/
theorem State.DriveLaws.composed_all {s u : State} (h : s.DriveLaws) (hp : u.panel = s.panel) (ht : u.tiles = s.tiles)
    (he : u.engines = s.engines) (hr : u.rail = s.rail) (hb : u.bandHeight = s.bandHeight) :
    (u.composed s.view allTiles).DriveLaws :=
  h.composed hp ht he hr ((State.bandOk_of_height hb).trans h.band) allTiles_nodup fun n hn =>
    absurd (mem_allTiles n) hn

/-- A change of the list, the banner derived again, and the drive's answer (R118, R127). -/
theorem State.DriveLaws.listChange_driveReact {s : State} (h : s.DriveLaws) {f : State → State} (hf : ListOnly f) :
    (s.listChange f).driveReact.DriveLaws :=
  (h.toPictureOk.listChange hf).driveReact (by rw [State.listChange_rail _ hf]; exact h.railRange)

theorem State.DriveLaws.listEvent {s : State} (h : s.DriveLaws) {f : State → State} (hf : ListOnly f) :
    (s.listEvent f).DriveLaws := by
  unfold State.listEvent
  split_ifs with ha
  · exact h.of_eq (State.view_of_eq (hf.panelTest s) (hf.blank s) ha (hf.bandHeight s) (hf.windows s)
      (by rw [hf.time])) (hf.panel s) (hf.tiles s) (hf.engines s) (hf.rail s) (hf.bandHeight s)
  · exact h.listChange_driveReact hf

end Sys2Proof.Machine
end

section
/-!
PROOF. The work of each row and of each due event keeps the laws on tiles, engines and rail: jobs that complete or are
abandoned, full-refresh marks, the rail's timers and its supply, the keys, the windows and the ports.
-/

namespace Sys2Proof.Machine

/-- The operation keeps the laws on tiles, engines and rail. -/
def KeepsDrive (f : State → State) : Prop := ∀ s : State, s.DriveLaws → (f s).DriveLaws

/-! ### Operations that leave the drive -/

theorem keepsDrive_modifyPort (p : PortId) (f : PortUnit → PortUnit) : KeepsDrive (State.modifyPort p f) :=
  fun _ h => h.of_eq rfl rfl rfl rfl rfl rfl

theorem keepsDrive_finish : KeepsDrive State.finish := fun _ h => h.of_eq rfl rfl rfl rfl rfl rfl

theorem keepsDrive_reply (p : PortId) (tag : Byte) (rc : RequestCode) (r : Reply) :
    KeepsDrive (State.reply p tag rc r) := fun s h => by
  cases r with
  | none => exact h
  | some x => exact keepsDrive_modifyPort p _ s h

theorem keepsDrive_chooseSource : KeepsDrive State.chooseSource := fun s h =>
  h.of_eq (State.view_of_eq (by simp [State.panelTest]) (by simp) (by simp) (by simp) (by simp) (by simp)) (by simp)
    (by simp) (by simp) (by simp) (by simp)

theorem keepsDrive_heardSince (b : State) : KeepsDrive (State.heardSince b) := fun s h => by
  unfold State.heardSince
  split_ifs
  · exact h
  · exact keepsDrive_chooseSource s h

/-- An event taken whole keeps the laws where its changes do. -/
theorem KeepsDrive.whole {f : State → State} (hf : KeepsDrive f) : KeepsDrive (State.whole f) := fun s h =>
  keepsDrive_finish _ (keepsDrive_heardSince s _ (hf s h))

theorem keepsDrive_timeOutWait (p : PortId) : KeepsDrive (State.timeOutWait p) := fun s h => by
  unfold State.timeOutWait
  split_ifs
  · exact keepsDrive_modifyPort p _ s h
  · exact h

theorem keepsDrive_takeSecond : KeepsDrive State.takeSecond := fun s h => by
  unfold State.takeSecond
  split
  · exact h.of_eq rfl rfl rfl rfl rfl rfl
  · exact h

theorem keepsDrive_expireShelving : KeepsDrive State.expireShelving := fun s h => by
  unfold State.expireShelving
  split_ifs
  · have hdue : ({ s with shelvingDue := false } : State).DriveLaws := h.of_eq rfl rfl rfl rfl rfl rfl
    exact hdue.listEvent listOnly_unshelveExpired
  · exact h

/-! ### Jobs (R56, R57, R59) -/

theorem TileRec.counted_partialCount_le {w : Waveform} {r : TileRec} (h : w = .fullDrive ∨ r.partialCount < 16) :
    (r.counted w).partialCount ≤ 16 := by
  cases w with
  | fullDrive => exact Nat.zero_le _
  | partialDrive =>
    have hlt : r.partialCount < 16 := h.resolve_left (by decide)
    exact hlt

theorem TileRec.completed_not_driving (r : TileRec) (stamp : Stamp) (stale : Bool) :
    (r.completed stamp stale).state ≠ .driving := by
  unfold TileRec.completed
  split_ifs <;> simp

theorem State.PictureOk.settledReport {s : State} (h : s.PictureOk) (ns : List TileId) :
    (s.settledReport ns).PictureOk := h.of_eq rfl rfl rfl rfl rfl rfl

/-- The completion of a job leaves the tile as R57 says, and the drive answers. -/
theorem State.DriveLaws.finishJob {s : State} (h : s.DriveLaws) {e : EngineId} {j : Job} (hj : s.engines[e] = some j) :
    (s.finishJob e j).DriveLaws := by
  have hend := h.toPictureOk.endJob hj (cells := known j.snapshot)
    (TileRec.completed_not_driving (s.tiles[j.tile].counted j.waveform) s.now
      (tileStale s.view (s.panel.set j.tile (known j.snapshot)) j.tile))
    (TileRec.counted_partialCount_le (h.drive.partials e j hj)) (by
      rw [tileStale, vector_set_get, if_pos rfl]
      exact TileRec.truthful_completed _ _ _ _)
  unfold State.finishJob
  simp only
  split_ifs
  · exact (hend.settledReport _).driveReact h.railRange
  · exact hend.driveReact h.railRange

theorem keepsDrive_completeJob (e : EngineId) : KeepsDrive (State.completeJob e) := fun s h => by
  unfold State.completeJob
  split
  · next j hj =>
    split_ifs
    · exact h.finishJob hj
    · exact h
  · exact h

/-- An abandoned job leaves its tile UNKNOWN and its panel values unknown (R59). -/
theorem State.PictureOk.abandonJob {s : State} (h : s.PictureOk) (e : EngineId) : (s.abandonJob e).PictureOk := by
  unfold State.abandonJob
  split
  · exact h
  · next j hj => exact h.endJob hj (by simp) (h.drive.counts j.tile) (by simp [TileRec.truthful])

theorem State.abandonJob_engine (s : State) (e d : EngineId) :
    (s.abandonJob e).engines[d] = if d = e then none else s.engines[d] := by
  unfold State.abandonJob
  split
  · next he =>
    split_ifs with hde
    · rw [hde, he]
    · rfl
  · exact vector_set_get _ _ _ _

theorem State.abandonJob_rail (s : State) (e : EngineId) : (s.abandonJob e).rail = s.rail := by
  unfold State.abandonJob
  split <;> rfl

/-- Every job is abandoned: the picture stands, every engine is free, the rail as it was. -/
theorem State.PictureOk.foldl_abandonJob (l : List EngineId) {s : State} (h : s.PictureOk) :
    (l.foldl (fun t e => t.abandonJob e) s).PictureOk ∧
      (∀ d : EngineId, d ∈ l ∨ s.engines[d] = none → (l.foldl (fun t e => t.abandonJob e) s).engines[d] = none) ∧
      (l.foldl (fun t e => t.abandonJob e) s).rail = s.rail := by
  induction l generalizing s with
  | nil => exact ⟨h, fun d hd => hd.resolve_left (by simp), rfl⟩
  | cons e l ih =>
    obtain ⟨hpic, hfree, hrail⟩ := ih (h.abandonJob e)
    refine ⟨hpic, fun d hd => hfree d ?_, hrail.trans (s.abandonJob_rail e)⟩
    rw [State.abandonJob_engine, List.mem_cons] at *
    by_cases hde : d = e
    · exact Or.inr (if_pos hde)
    · rw [if_neg hde]
      exact hd.imp (fun hm => hm.resolve_left hde) id

/-! ### Full-refresh marks (R65, R69) -/

/-- The tile records after the marks: each named tile for which `which` holds is marked, once. -/
theorem foldl_markFull (stamp : Stamp) (which : TileRec → Bool) (ns : List TileId) (hd : ns.Nodup)
    (tiles : Vector TileRec 40) (n : TileId) :
    (ns.foldl (fun ts (n : TileId) => if which ts[n] then ts.set n (ts[n].markFull stamp) else ts) tiles)[n] =
      if n ∈ ns ∧ which tiles[n] = true then tiles[n].markFull stamp else tiles[n] := by
  induction ns generalizing tiles with
  | nil => simp
  | cons m ns ih =>
    obtain ⟨hm, hd⟩ := List.nodup_cons.mp hd
    rw [List.foldl_cons, ih hd]
    by_cases hnm : n = m
    · subst hnm
      by_cases hw : which tiles[n] = true
      · simp only [hw, hm, if_true, vector_set_get, List.mem_cons, true_or, and_self, false_and, if_false]
      · simp only [hw, hm, List.mem_cons, true_or, and_false, Bool.false_eq_true, if_false]
    · have hkept : (if which tiles[m] then tiles.set m (tiles[m].markFull stamp) else tiles)[n] = tiles[n] := by
        split_ifs
        · rw [vector_set_get, if_neg hnm]
        · rfl
      simp only [hkept, List.mem_cons, hnm, false_or]

/-- Marks of full due, and the drive's answer. -/
theorem State.DriveLaws.markTiles {s : State} (h : s.DriveLaws) {ns : List TileId} (hd : ns.Nodup)
    (which : TileRec → Bool) : (s.markTiles ns which).DriveLaws := by
  unfold State.markTiles
  refine State.PictureOk.driveReact ⟨h.band, h.drive.of_tiles rfl rfl (fun n => ?_) fun n => ?_, fun n => ?_⟩
    h.railRange
  · rw [foldl_markFull _ _ _ hd]
    split_ifs
    · exact TileRec.markFull_driving _ _
    · rfl
  · rw [foldl_markFull _ _ _ hd]
    split_ifs <;> rfl
  · have hn := h.tiles n
    rw [State.tileOk_eq_truthful] at hn ⊢
    rw [foldl_markFull _ _ _ hd]
    split_ifs
    · exact TileRec.truthful_markFull hn _
    · exact hn

theorem keepsDrive_expireRefresh : KeepsDrive State.expireRefresh := fun s h => by
  unfold State.expireRefresh
  split_ifs
  · have hcount : ({ s with refreshCount := 0 } : State).DriveLaws := h.of_eq rfl rfl rfl rfl rfl rfl
    exact hcount.markTiles allTiles_nodup _
  · exact h

/-! ### The rail's timers and its supply (R78 to R80, R82, R83, R85) -/

/-- While the rail is ON with its hold timer running, every engine is free (R81). -/
theorem State.DriveLaws.free_of_hold {s : State} (h : s.DriveLaws) {n : Nat} (hs : s.rail.state = .on (some n)) :
    ∀ e : EngineId, s.engines[e] = none := by
  obtain ⟨_, hanswer⟩ := s.railOk_iff.mp h.rail
  rw [hs] at hanswer
  have hidle := hanswer.2
  simp only [Option.isSome_some, Bool.true_eq, Bool.not_eq_true', Bool.or_eq_false_iff] at hidle
  exact s.anyBusy_false.mp hidle.2

/-- A rail that is neither OFF nor ON answers nothing; its state may change so where every engine is free. -/
theorem State.PictureOk.driveLaws_of_rail {s : State} (h : s.PictureOk) (hfree : ∀ e : EngineId, s.engines[e] = none)
    {r : Rail} (hr : r.ok = true) (hoff : r.state ≠ .off) (hon : ∀ x, r.state ≠ .on x) :
    ({ s with rail := r } : State).DriveLaws := by
  refine ⟨h.of_rail hfree r, (State.railOk_iff _).mpr ⟨hr, ?_⟩⟩
  cases hs : r.state with
  | off => exact absurd hs hoff
  | on x => exact absurd hs (hon x)
  | _ => trivial

theorem keepsDrive_expireHold : KeepsDrive State.expireHold := fun s h => by
  unfold State.expireHold
  split
  · next hs =>
    have hrange := s.rail.ok_iff.mp h.railRange
    rw [hs] at hrange
    exact h.toPictureOk.driveLaws_of_rail (h.free_of_hold hs)
      ((Rail.ok_iff _).mpr ⟨hrange.1, le_rfl, hrange.2.1⟩) (by simp) (by simp)
  · exact h

theorem keepsDrive_expireFall : KeepsDrive State.expireFall := fun s h => by
  unfold State.expireFall
  split
  · next hs =>
    have hrange := s.rail.ok_iff.mp h.railRange
    rw [hs] at hrange
    exact (h.of_rail (h.drive.busy (by rw [State.railOn, hs])) _).driveReact
      ((Rail.ok_iff _).mpr ⟨hrange.1, hrange.2.2⟩)
  · exact h

theorem keepsDrive_expireRetry : KeepsDrive State.expireRetry := fun s h => by
  unfold State.expireRetry
  split
  · next hs =>
    have hrange := s.rail.ok_iff.mp h.railRange
    rw [hs] at hrange
    exact h.enterRising (by rw [State.railOn, hs]) hrange.1 hrange.2.2.2
  · exact h

theorem keepsDrive_expireRise : KeepsDrive State.expireRise := fun s h => by
  unfold State.expireRise
  split
  · next hs =>
    have hrange := s.rail.ok_iff.mp h.railRange
    rw [hs] at hrange
    obtain ⟨hk, _, hlt⟩ := hrange
    have hfault : ((s.setAttempts (s.rail.attempts + 1)).setRail
        (.fault (if s.rail.attempts + 1 < 3 then some 320 else none))).DriveLaws := by
      refine h.toPictureOk.driveLaws_of_rail (h.drive.busy (by rw [State.railOn, hs])) ((Rail.ok_iff _).mpr ⟨hk, ?_⟩)
        (by simp) (by simp)
      split_ifs with h3
      · exact ⟨le_rfl, Nat.succ_pos _, h3⟩
      · have h2 : s.rail.attempts + 1 = 3 := by omega
        exact h2
    simp only
    by_cases hfirst : s.rail.attempts = 0
    · rw [if_pos hfirst]
      exact hfault.listEvent listOnly_raiseDriveFault
    · rw [if_neg hfirst]
      exact hfault
  · exact h

theorem keepsDrive_assertPowerGood : KeepsDrive State.assertPowerGood := fun s h => by
  have hlevel : ({ s with powerGood := true } : State).DriveLaws := h.of_eq rfl rfl rfl rfl rfl rfl
  unfold State.assertPowerGood
  simp only
  split
  · exact hlevel.reachOn (s.rail.ok_iff.mp h.railRange).1
  · exact hlevel

theorem keepsDrive_losePowerGood : KeepsDrive State.losePowerGood := fun s h => by
  have hlevel : ({ s with powerGood := false } : State).DriveLaws := h.of_eq rfl rfl rfl rfl rfl rfl
  unfold State.losePowerGood
  simp only
  split_ifs
  · obtain ⟨hpic, hfree, hrail⟩ := hlevel.toPictureOk.foldl_abandonJob engineIds
    have hrange := (s.rail.ok_iff.mp h.railRange).1
    rw [← hrail] at hrange
    exact (hpic.driveLaws_of_rail (r := ⟨.fault (some 320), 1, _⟩) (fun e => hfree e (Or.inl (List.mem_finRange e)))
      ((Rail.ok_iff _).mpr ⟨hrange, le_rfl, le_rfl, by simp⟩) (by simp) (by simp)).listEvent listOnly_raiseDriveFault
  · exact hlevel

/-! ### The keys and the overlays (R152 to R159) -/

theorem keepsDrive_takeAck : KeepsDrive State.takeAck := fun _ h => h.of_eq rfl rfl rfl rfl rfl rfl

theorem keepsDrive_takeSilence : KeepsDrive State.takeSilence := fun _ h => h.of_eq rfl rfl rfl rfl rfl rfl

theorem listOnly_acknowledgeFirst : ListOnly State.acknowledgeFirst := handsOnly_acknowledgeFirst.1

theorem keepsDrive_pressAck : KeepsDrive State.pressAck := fun s h => by
  unfold State.pressAck
  split_ifs
  · exact (keepsDrive_takeAck s h).listEvent listOnly_acknowledgeFirst
  · exact h

theorem keepsDrive_releaseAck : KeepsDrive State.releaseAck := fun s h => by
  unfold State.releaseAck
  split_ifs
  · exact keepsDrive_takeAck s h
  · exact h

theorem keepsDrive_holdAck : KeepsDrive State.holdAck := fun s h => by
  unfold State.holdAck
  split_ifs
  · have hkeys : ({ s with keys := { s.keys with holdDue := false } } : State).DriveLaws :=
      h.of_eq rfl rfl rfl rfl rfl rfl
    exact hkeys.listEvent listOnly_acknowledgeEligible
  · exact h

theorem keepsDrive_pressSilence : KeepsDrive State.pressSilence := fun s h => by
  unfold State.pressSilence
  split_ifs
  · have hchimes : ({ s.takeSilence with chimes := [] } : State).DriveLaws := h.of_eq rfl rfl rfl rfl rfl rfl
    exact keepsDrive_chooseSource _ (hchimes.listChange_driveReact listOnly_silenceAll)
  · exact h

theorem keepsDrive_releaseSilence : KeepsDrive State.releaseSilence := fun s h => by
  unfold State.releaseSilence
  split_ifs
  · exact keepsDrive_takeSilence s h
  · exact h

/-- A change of the test flags alone, with the overlay event it may be (R11, R156). -/
theorem State.DriveLaws.testChange {s : State} (h : s.DriveLaws) {f : State → State}
    (hf : f s = { s with keys := (f s).keys, remoteTest := (f s).remoteTest }) : (s.testChange f).DriveLaws := by
  unfold State.testChange
  split_ifs with ht
  · refine h.of_eq (State.view_of_eq ht ?_ ?_ ?_ ?_ ?_) ?_ ?_ ?_ ?_ ?_ <;> rw [hf]
  · refine h.composed_all ?_ ?_ ?_ ?_ ?_ <;> rw [hf]

theorem State.DriveLaws.takeTest {s : State} (h : s.DriveLaws) : s.takeTest.DriveLaws := h.testChange rfl

theorem keepsDrive_pressTest : KeepsDrive State.pressTest := fun s h => by
  unfold State.pressTest
  split_ifs
  · exact h.takeTest
  · exact h

theorem keepsDrive_releaseTest : KeepsDrive State.releaseTest := fun s h => by
  unfold State.releaseTest
  split_ifs
  · exact h.takeTest
  · exact h

theorem keepsDrive_setRemoteTest (b : Bool) : KeepsDrive (State.setRemoteTest b) := fun _ h => h.testChange rfl

theorem keepsDrive_setBlank (b : Bool) : KeepsDrive (State.setBlank b) := fun s h => by
  unfold State.setBlank
  split_ifs
  · exact h
  · exact h.composed_all rfl rfl rfl rfl rfl

theorem keepsDrive_setPhase (b : Bool) : KeepsDrive (State.setPhase b) := fun _ h =>
  h.composed_all rfl rfl rfl rfl rfl

theorem keepsDrive_takeBlink : KeepsDrive State.takeBlink := fun s h => by
  unfold State.takeBlink
  split_ifs
  · exact keepsDrive_setPhase _ _ (h.of_eq rfl rfl rfl rfl rfl rfl)
  · exact h

/-! ### The sounder (R142, R143) -/

theorem keepsDrive_setPattern (pt : Pattern) : KeepsDrive (State.setPattern pt) := fun _ h =>
  h.of_eq rfl rfl rfl rfl rfl rfl

theorem keepsDrive_endPattern (pt : Pattern) : KeepsDrive (State.endPattern pt) := fun s h => by
  unfold State.endPattern
  split
  · exact keepsDrive_setPattern _ s h
  · have hnone : ({ s with pattern := none } : State).DriveLaws := h.of_eq rfl rfl rfl rfl rfl rfl
    exact keepsDrive_chooseSource _ (hnone.listChange_driveReact (listOnly_silenceEnded _ _))
  · exact keepsDrive_chooseSource _ (h.of_eq rfl rfl rfl rfl rfl rfl)

theorem keepsDrive_endPeriod : KeepsDrive State.endPeriod := fun s h => by
  unfold State.endPeriod
  split
  · exact h
  · simp only
    split
    · split_ifs
      · exact keepsDrive_setPattern _ s h
      · exact keepsDrive_endPattern _ s h
      · exact keepsDrive_setPattern _ s h
    · split_ifs
      · exact keepsDrive_endPattern _ s h
      · exact keepsDrive_setPattern _ s h
    · exact h

/-! ### The windows (R26 to R42) -/

/-- An entry of the window table changes, and an event re-evaluates the tiles outside which the entry offers the
same. -/
theorem State.DriveLaws.setEntry_composed {s : State} (h : s.DriveLaws) (i : WindowId) (e : Option Window)
    {ns : List TileId} (hd : ns.Nodup) (ho : ∀ n, n ∉ ns → ∀ k < 8,
      offerOf (tileRow n) (tileCol n + k) e = offerOf (tileRow n) (tileCol n + k) s.windows[i]) :
    ((s.setEntry i e).compositorEvent s.view ns).PictureOk ∧ ((s.setEntry i e).composed s.view ns).DriveLaws := by
  have hpic : ((s.setEntry i e).compositorEvent s.view ns).PictureOk := by
    refine h.toPictureOk.compositorEvent (u := s.setEntry i e) rfl rfl rfl rfl h.band hd fun n hn => ?_
    refine View.tile_of_windows (s := s) (u := s.setEntry i e) rfl rfl rfl rfl rfl fun k hk j => ?_
    rw [State.setEntry_windows, vector_set_get]
    split_ifs with hji
    · rw [ho n hn k hk, hji]
    · rfl
  exact ⟨hpic, hpic.driveReact h.railRange⟩

/-- An entry changes in what no cell reads. -/
theorem State.DriveLaws.setEntry {s : State} (h : s.DriveLaws) (i : WindowId) (e : Option Window)
    (ho : ∀ row col, offerOf row col e = offerOf row col s.windows[i]) : (s.setEntry i e).DriveLaws := by
  refine h.of_composed (fun n => View.tile_of_windows (s := s) (u := s.setEntry i e) rfl rfl rfl rfl rfl
    fun k _ j => ?_) rfl rfl rfl rfl rfl
  rw [State.setEntry_windows, vector_set_get]
  split_ifs with hji
  · rw [ho, hji]
  · rfl

/-- A window of a rectangle offers nothing outside the rectangle's tiles. -/
theorem offerOf_of_not_mem {w : Window} {r : Rect} (hr : w.rect = r) {n : TileId} (hn : n ∉ r.tiles) {k : Nat}
    (hk : k < 8) : offerOf (tileRow n) (tileCol n + k) (some w) = none := by
  rw [Rect.mem_tiles, Bool.not_eq_true, ← hr] at hn
  exact Window.offer_of_not_touches hn hk

/-- A window changes in its place's content or settings, and the tiles of its rectangle are re-evaluated. -/
theorem State.DriveLaws.changeWindow {s : State} (h : s.DriveLaws) {i : WindowId} {w v : Window}
    (hw : s.windows[i] = some w) (hv : v.rect = w.rect) :
    ((s.setEntry i (some v)).composed s.view w.rect.tiles).DriveLaws :=
  (h.setEntry_composed i (some v) w.rect.tiles_nodup fun n hn k hk => by
    rw [offerOf_of_not_mem hv hn hk, hw, offerOf_of_not_mem rfl hn hk]).2

/-- Windows are closed as one event (R27, R42). -/
theorem keepsDrive_closeWindows (is : List WindowId) : KeepsDrive (State.closeWindows is) := fun s h => by
  unfold State.closeWindows
  split_ifs
  · exact h
  · generalize hu : State.endWaits .windowGone _ _ = u
    have hwin (i : WindowId) : u.windows[i] = if i ∈ is then none else s.windows[i] := by
      rw [← hu, State.endWaits_windows, State.foldl_free]
    have hrest : u.panel = s.panel ∧ u.tiles = s.tiles ∧ u.engines = s.engines ∧ u.rail = s.rail ∧
        u.bandHeight = s.bandHeight ∧ u.panelTest = s.panelTest ∧ u.blank = s.blank ∧ u.alerts = s.alerts ∧
        u.time = s.time := by
      rw [← hu]
      exact ⟨rfl, rfl, rfl, rfl, rfl, rfl, rfl, rfl, rfl⟩
    obtain ⟨hpanel, htiles, hengines, hrail, hheight, htest, hblank, halerts, htime⟩ := hrest
    refine h.composed hpanel htiles hengines hrail ((State.bandOk_of_height hheight).trans h.band)
      (tileIds_nodup.filter _) fun n hn => ?_
    refine View.tile_of_windows htest hblank halerts hheight (by rw [htime]) fun k hk i => ?_
    rw [hwin]
    split_ifs with hi
    · cases hw : s.windows[i] with
      | none => rfl
      | some w =>
        have hout : w.rect.touches n = false := by
          rw [← Bool.not_eq_true]
          exact fun ht => hn ((s.mem_windowTiles is n).mpr ⟨i, hi, w, hw, ht⟩)
        exact (Window.offer_of_not_touches hout hk).symm
    · rfl

/-! ### The ports (R183, R187) -/

theorem keepsDrive_releaseRole (p : PortId) : KeepsDrive (State.releaseRole p) := fun s h => by
  unfold State.releaseRole
  split_ifs
  · exact keepsDrive_setRemoteTest false _ (h.of_eq rfl rfl rfl rfl rfl rfl)
  · exact h

theorem keepsDrive_losePort (p : PortId) : KeepsDrive (State.losePort p) := fun s h => by
  have hrole := keepsDrive_releaseRole p _ (keepsDrive_modifyPort p PortUnit.lose s h)
  unfold State.losePort
  cases hclose : decide (s.ports[p].lossAction = .close) with
  | true =>
    exact (keepsDrive_closeWindows _ _ hrole).listEvent ((listOnly_clearPort p).comp (listOnly_raisePortLost p))
  | false => exact hrole.listEvent (listOnly_raisePortLost p)

theorem keepsDrive_loseIfDue (p : PortId) : KeepsDrive (State.loseIfDue p) := fun s h => by
  unfold State.loseIfDue
  split_ifs
  · exact keepsDrive_losePort p s h
  · exact h

/-! ### Due events, and those that a request takes first (log 2, log 8) -/

theorem keepsDrive_act (d : Due) : KeepsDrive d.act := by
  cases d with
  | completion e => exact keepsDrive_completeJob e
  | rise => exact keepsDrive_expireRise
  | hold => exact keepsDrive_expireHold
  | fall => exact keepsDrive_expireFall
  | retry => exact keepsDrive_expireRetry
  | period => exact keepsDrive_endPeriod
  | ackPress => exact keepsDrive_pressAck
  | ackRelease => exact keepsDrive_releaseAck
  | ackHold => exact keepsDrive_holdAck
  | silencePress => exact keepsDrive_pressSilence
  | silenceRelease => exact keepsDrive_releaseSilence
  | testPress => exact keepsDrive_pressTest
  | testRelease => exact keepsDrive_releaseTest
  | second => exact keepsDrive_takeSecond
  | blink => exact keepsDrive_takeBlink
  | shelving => exact keepsDrive_expireShelving
  | refresh => exact keepsDrive_expireRefresh
  | loss p => exact keepsDrive_loseIfDue p
  | waitEnd p => exact keepsDrive_timeOutWait p

theorem keepsDrive_settle : KeepsDrive State.settle := fun _ h =>
  State.settle_induct (P := State.DriveLaws) (fun _ _ h => h.of_eq rfl rfl rfl rfl rfl rfl)
    (fun s d _ h => (keepsDrive_act d).whole s h) h

theorem keepsDrive_lossFirst (p : PortId) : KeepsDrive (State.lossFirst p) := fun s h => by
  unfold State.lossFirst
  split_ifs
  · exact (keepsDrive_losePort p).whole s h
  · exact h

theorem keepsDrive_secondFirst (p : PortId) : KeepsDrive (State.secondFirst p) := fun s h => by
  unfold State.secondFirst
  refine keepsDrive_lossFirst p _ ?_
  split_ifs
  · exact keepsDrive_takeSecond.whole s h
  · exact h

theorem keepsDrive_expiryFirst : KeepsDrive State.expiryFirst := fun s h => by
  unfold State.expiryFirst
  split_ifs
  · exact keepsDrive_expireRefresh.whole s h
  · exact h

theorem KeepsDrive.comp {f g : State → State} (hf : KeepsDrive f) (hg : KeepsDrive g) : KeepsDrive fun s => g (f s) :=
  fun s h => hg _ (hf s h)

end Sys2Proof.Machine
end

section
/-!
PROOF. Every row keeps the laws on tiles, engines and rail: admission and the taking of a request keep what the
request's work keeps, so does each request of the table, and the events by `keepsDrive_act`. O59 is the last theorem.
-/

namespace Sys2Proof.Machine

/-! ### Requests (R180, R181; log 8) -/

/-- A block's work keeps the laws on tiles, engines and rail. -/
def RunKeepsDrive (run : State → State × Reply) : Prop := ∀ s : State, s.DriveLaws → (run s).1.DriveLaws

theorem keepsDrive_refuse (p : PortId) (tag code : Byte) (st : Status) : KeepsDrive (State.refuse p tag code st) :=
  keepsDrive_modifyPort p _

/-- Admission keeps what the work keeps that it lets run, on operands in range. -/
theorem keepsDrive_admission {p : PortId} {tag : Byte} {rc : RequestCode} {lengthOk inRange sup : Bool}
    {run : State → State × Reply} (h : inRange = true → RunKeepsDrive run) :
    KeepsDrive (admission p tag rc lengthOk inRange sup run) := fun s hs => by
  unfold admission
  split_ifs with hattached hlength hrange hsup
  · exact keepsDrive_refuse _ _ _ _ s hs
  · exact keepsDrive_refuse _ _ _ _ s hs
  · exact keepsDrive_refuse _ _ _ _ s hs
  · exact keepsDrive_refuse _ _ _ _ s hs
  · exact keepsDrive_reply _ _ _ _ _ (keepsDrive_heardSince s _ (h (by simpa using hrange) s hs))

theorem keepsDrive_afterDue {p : PortId} {first : State → State} {run : State → State × Reply}
    (hf : KeepsDrive first) (hr : RunKeepsDrive run) : RunKeepsDrive (afterDue p first run) := fun s h => by
  unfold afterDue
  split_ifs
  · exact hr _ (hf s h)
  · exact hf s h

theorem keepsDrive_badLength (p : PortId) (tag : Byte) (rc : RequestCode) : KeepsDrive (badLength p tag rc) :=
  keepsDrive_admission fun _ _ h => h

/-! ### The port requests -/

theorem keepsDrive_attach (p : PortId) (role keepalive lossAction : Byte) :
    RunKeepsDrive (State.attach p role keepalive lossAction) := fun s h => by
  have hport := keepsDrive_modifyPort p (·.attached keepalive.toNat (if yes lossAction then .close else .keep)) s h
  have hrole : KeepsDrive (State.takeRole p (yes role)) := fun u hu => by
    unfold State.takeRole
    split_ifs
    · exact hu.of_eq rfl rfl rfl rfl rfl rfl
    · exact keepsDrive_releaseRole p u hu
  unfold State.attach
  simp only
  split
  · exact (hrole _ hport).listEvent (listOnly_clear _ _)
  · exact hrole _ hport

theorem keepsDrive_reqAttach (p : PortId) (tag role keepalive lossAction : Byte) :
    KeepsDrive (reqAttach p tag role keepalive lossAction) := keepsDrive_admission fun _ s h => by
  unfold runAttach
  split_ifs
  · exact h
  · exact keepsDrive_afterDue (keepsDrive_secondFirst p) (keepsDrive_attach p role keepalive lossAction) s h

theorem keepsDrive_clearPort (p : PortId) : KeepsDrive (State.listEvent (State.clearPort p)) := fun _ h =>
  h.listEvent (listOnly_clearPort p)

theorem keepsDrive_reqDetach (p : PortId) (tag : Byte) : KeepsDrive (reqDetach p tag) :=
  keepsDrive_admission fun _ s h =>
    keepsDrive_clearPort p _ (keepsDrive_closeWindows _ _ (keepsDrive_modifyPort p _ _
      (keepsDrive_releaseRole p _ (keepsDrive_modifyPort p _ s h))))

theorem keepsDrive_reqResetPort (p : PortId) (tag : Byte) : KeepsDrive (reqResetPort p tag) :=
  keepsDrive_admission fun _ s h =>
    keepsDrive_clearPort p _ (keepsDrive_closeWindows _ _ (keepsDrive_modifyPort p _ s h))

theorem keepsDrive_statusArrives (p : PortId) (tag : Byte) (extra : List Byte) :
    KeepsDrive (State.statusArrives p tag extra) := fun s h => by
  unfold State.statusArrives
  split_ifs <;> exact keepsDrive_modifyPort p _ s h

theorem keepsDrive_reqSetFilter (p : PortId) (tag filter enabled mode av am cv cm : Byte) :
    KeepsDrive (reqSetFilter p tag filter enabled mode av am cv cm) := keepsDrive_admission fun _ s h => by
  unfold runSetFilter
  dsimp only
  exact keepsDrive_modifyPort p _ s h

theorem keepsDrive_reqSetNotices (p : PortId) (tag setting : Byte) : KeepsDrive (reqSetNotices p tag setting) :=
  keepsDrive_admission fun _ s h => keepsDrive_modifyPort p _ s h

theorem keepsDrive_reqWaitSettled (p : PortId) (tag window timeout : Byte) :
    KeepsDrive (reqWaitSettled p tag window timeout) := keepsDrive_admission fun _ s h => by
  unfold runWaitSettled
  split
  · exact h
  · split_ifs
    · exact h
    · exact keepsDrive_afterDue (keepsDrive_secondFirst p) (fun t ht =>
        keepsDrive_modifyPort p (fun u => { u with wait := some ⟨windowOf window, timeout.toNat, 0, tag⟩ }) t ht) s h

/-! ### The window requests -/

theorem keepsDrive_reqOpenWindow (p : PortId) (tag row col height width level : Byte) :
    KeepsDrive (reqOpenWindow p tag row col height width level) := keepsDrive_admission fun _ s h => by
  unfold runOpenWindow
  simp only
  split
  · exact h
  · next i hi =>
    have hfree : s.windows[i] = none := by simpa using List.find?_some hi
    split_ifs
    · exact h
    · exact h
    · exact h
    · refine (h.setEntry_composed i _ (Rect.tiles_nodup _) fun n hn k hk => ?_).2
      rw [offerOf_of_not_mem rfl hn hk, hfree]
      rfl

theorem keepsDrive_reqCloseWindow (p : PortId) (tag window : Byte) : KeepsDrive (reqCloseWindow p tag window) :=
  keepsDrive_admission fun _ s h => by
    unfold runCloseWindow
    split
    · exact h
    · split_ifs
      · exact h
      · exact keepsDrive_closeWindows [windowOf window] s h

theorem keepsDrive_reqMoveWindow (p : PortId) (tag window row col level : Byte) :
    KeepsDrive (reqMoveWindow p tag window row col level) := keepsDrive_admission fun _ s h => by
  unfold runMoveWindow
  simp only
  split
  · exact h
  · next w hw =>
    split_ifs
    · exact h
    · exact h
    · exact h
    · have hmoved := (h.setEntry_composed (windowOf window)
        (some { w with row := row.toNat, col := col.toNat, level := level.toNat }) (tileIds_nodup.filter _)
        (ns := tileIds.filter fun n => w.rect.touches n ||
          Rect.touches (Window.rect { w with row := row.toNat, col := col.toNat, level := level.toNat }) n)
        fun n hn k hk => by
          rw [List.mem_filter, not_and, Bool.not_eq_true, Bool.or_eq_false_iff] at hn
          obtain ⟨hold, hnew⟩ := hn (mem_tileIds n)
          rw [hw]
          exact (Window.offer_of_not_touches hnew hk).trans (Window.offer_of_not_touches hold hk).symm).1
      exact State.PictureOk.driveReact (hmoved.of_eq rfl rfl rfl rfl rfl rfl) h.railRange

/-- Settings that make no composition event leave what the window offers (R32 to R34). -/
theorem Window.offer_withSettings {w : Window} {visible deferred : Bool} (writers : Byte)
    (hv : visible = w.visible) (hd : w.deferred = true → deferred = true) (row col : Nat) :
    (w.withSettings visible deferred writers).offer row col = w.offer row col := by
  refine Window.offer_congr (v := w.withSettings visible deferred writers) hv rfl rfl ?_ row col
  cases deferred with
  | true => rfl
  | false =>
    have hnone : w.published = none := by
      cases hp : w.published with
      | none => rfl
      | some c => exact absurd (hd (by rw [Window.deferred, hp]; rfl)) (by decide)
    simp only [Window.shown, Window.withSettings, Bool.false_eq_true, if_false, hnone]

theorem keepsDrive_reqSetWindow (p : PortId) (tag window visible deferred writers : Byte) :
    KeepsDrive (reqSetWindow p tag window visible deferred writers) := keepsDrive_admission fun _ s h => by
  unfold runSetWindow
  simp only
  split
  · exact h
  · next w hw =>
    by_cases howner : w.owner ≠ p
    · rw [if_pos howner]
      exact h
    · rw [if_neg howner]
      by_cases hspace : (yes deferred && !w.deferred && decide (s.freeCells < w.area)) = true
      · rw [if_pos hspace]
        exact h
      · rw [if_neg hspace]
        simp only
        split_ifs with hevent
        · exact h.changeWindow hw rfl
        · simp only [Bool.or_eq_true, Bool.and_eq_true, Bool.not_eq_true', decide_eq_true_eq, not_or, not_and,
            Bool.not_eq_false, not_not] at hevent
          refine h.setEntry _ _ fun row col => ?_
          rw [hw]
          exact Window.offer_withSettings writers hevent.2.symm hevent.1 row col

/-- New working content shows at once only in a window that is not deferred (R11, R38). -/
theorem State.DriveLaws.writeContent {s : State} (h : s.DriveLaws) {i : WindowId} {w : Window}
    (hw : s.windows[i] = some w) (content : List CellValue) : (s.writeContent i w content).DriveLaws := by
  unfold State.writeContent
  simp only
  split_ifs with hdeferred
  · refine h.setEntry i _ fun row col => ?_
    rw [hw]
    refine Window.offer_congr (v := { w with working := content }) (w := w) rfl rfl rfl ?_ row col
    obtain ⟨c, hc⟩ := Option.isSome_iff_exists.mp hdeferred
    simp only [Window.shown, hc, Option.getD_some]
  · exact h.changeWindow hw rfl

theorem keepsDrive_reqWriteCells (p : PortId) (tag window row col : Byte) (cells : List Byte) :
    KeepsDrive (reqWriteCells p tag window row col cells) := keepsDrive_admission fun _ s h => by
  unfold runWriteCells
  simp only
  split
  · exact h
  · next w hw =>
    split_ifs
    · exact h
    · exact h
    · exact h.writeContent hw _

theorem keepsDrive_reqFillCells (p : PortId) (tag window row col height width glyph attr : Byte) :
    KeepsDrive (reqFillCells p tag window row col height width glyph attr) := keepsDrive_admission fun _ s h => by
  unfold runFillCells
  simp only
  split
  · exact h
  · next w hw =>
    split_ifs
    · exact h
    · exact h
    · exact h.writeContent hw _

theorem keepsDrive_reqReadCells (p : PortId) (tag window row col count : Byte) :
    KeepsDrive (reqReadCells p tag window row col count) := keepsDrive_admission fun _ s h => by
  unfold runReadCells
  split
  · exact h
  · split_ifs
    · exact h
    · exact h

theorem keepsDrive_reqFlush (p : PortId) (tag window : Byte) : KeepsDrive (reqFlush p tag window) :=
  keepsDrive_admission fun _ s h => by
    unfold runFlush
    simp only
    split
    · exact h
    · next w hw =>
      split_ifs
      · exact h
      · exact h.changeWindow hw rfl
      · exact h

/-! ### The drive and rail requests -/

theorem keepsDrive_reqFullRefresh (p : PortId) (tag selector window : Byte) :
    KeepsDrive (reqFullRefresh p tag selector window) := keepsDrive_admission fun _ s h => by
  unfold runFullRefresh
  split_ifs
  · split
    · exact h
    · next w _ => exact h.markTiles (ns := w.rect.tiles) (Rect.tiles_nodup _) fun _ => true
  · exact h.markTiles (ns := allTiles) allTiles_nodup fun _ => true

theorem keepsDrive_reqSetRefreshPeriod (p : PortId) (tag minutes : Byte) :
    KeepsDrive (reqSetRefreshPeriod p tag minutes) := keepsDrive_admission fun _ =>
  keepsDrive_afterDue ((keepsDrive_secondFirst p).comp keepsDrive_expiryFirst) fun s h =>
    h.of_eq (t := { s with refreshPeriod := minutes.toNat, refreshCount := 0 }) rfl rfl rfl rfl rfl rfl

theorem keepsDrive_reqSetHold (p : PortId) (tag seconds : Byte) : KeepsDrive (reqSetHold p tag seconds) :=
  keepsDrive_admission fun hrange s h => by
    have hsec : 1 ≤ seconds.toNat ∧ seconds.toNat ≤ 60 := of_decide_eq_true hrange
    obtain ⟨hok, hanswer⟩ := s.railOk_iff.mp h.rail
    exact ⟨h.toPictureOk.of_eq rfl rfl rfl rfl rfl rfl, (State.railOk_iff _).mpr
      ⟨(Rail.ok_iff _).mpr ⟨hsec, (s.rail.ok_iff.mp hok).2⟩, hanswer⟩⟩

theorem keepsDrive_reqClearDriveFault (p : PortId) (tag : Byte) : KeepsDrive (reqClearDriveFault p tag) :=
  keepsDrive_admission fun _ s h => by
    unfold runClearDriveFault
    simp only
    split_ifs with hlocked
    · have hoff : s.railOn = false := by
        unfold Rail.locked at hlocked
        unfold State.railOn
        cases hs : s.rail.state <;> simp_all
      exact (h.of_rail (h.drive.busy hoff) ⟨.off, 0, s.rail.holdSetting⟩).driveReact
        ((Rail.ok_iff _).mpr ⟨(s.rail.ok_iff.mp h.railRange).1, rfl⟩)
    · exact h

/-! ### The list's requests, the banner's and the sounder's -/

theorem keepsDrive_reqRaiseAlert (p : PortId) (tag code area cls severity lamp tone : Byte) (message : List Byte) :
    KeepsDrive (reqRaiseAlert p tag code area cls severity lamp tone message) := keepsDrive_admission fun _ s h => by
  unfold runRaiseAlert
  split_ifs
  · exact h.listEvent listOnly_raiseListOverflow
  · exact h.listEvent (listOnly_raise _ _ _)

theorem keepsDrive_reqClearAlert (p : PortId) (tag code : Byte) : KeepsDrive (reqClearAlert p tag code) :=
  keepsDrive_admission fun _ s h => by
    unfold runClearAlert
    simp only
    split_ifs
    · exact h
    · exact h.listEvent fun u => ((listOnly_clear (.port p) code).comp (listOnly_checkOverflow _)) u

theorem keepsDrive_reqAckAlert (p : PortId) (tag source code : Byte) : KeepsDrive (reqAckAlert p tag source code) :=
  keepsDrive_admission fun _ s h => by
    unfold runAckAlert
    simp only
    split_ifs
    · exact h
    · exact h
    · exact h.listEvent fun u =>
        ((listOnly_acknowledge (.port p) (sourceOf source) code).comp (listOnly_checkOverflow _)) u

theorem keepsDrive_reqShelveAlert (p : PortId) (tag source code : Byte) (seconds : BitVec 16) :
    KeepsDrive (reqShelveAlert p tag source code seconds) := keepsDrive_admission fun _ s h => by
  unfold runShelveAlert
  simp only
  split_ifs
  · exact h
  · exact h.listEvent (listOnly_shelve _ _ _)

theorem keepsDrive_reqUnshelveAlert (p : PortId) (tag source code : Byte) :
    KeepsDrive (reqUnshelveAlert p tag source code) := keepsDrive_admission fun _ s h => by
  unfold runUnshelveAlert
  simp only
  split_ifs
  · exact h
  · exact h.listEvent (listOnly_unshelve _ _)

theorem keepsDrive_reqListAlerts (p : PortId) (tag start : Byte) : KeepsDrive (reqListAlerts p tag start) :=
  keepsDrive_admission fun _ _ h => h

/-- SET_BANNER takes a height of 1 or 2 alone, and re-evaluates the tiles of rows 0 and 1 (R128). -/
theorem keepsDrive_reqSetBanner (p : PortId) (tag height : Byte) : KeepsDrive (reqSetBanner p tag height) :=
  keepsDrive_admission fun hrange s h => by
    have hheight : 1 ≤ height.toNat ∧ height.toNat ≤ 2 := of_decide_eq_true hrange
    have hband : ({ s with bandHeight := height.toNat } : State).bandOk = true :=
      decide_eq_true (by show height.toNat = 1 ∨ height.toNat = 2; omega)
    unfold runSetBanner
    simp only
    split_ifs
    · exact h
    · refine h.composed (u := { s with bandHeight := height.toNat }) rfl rfl rfl rfl hband bandTiles_nodup
        fun n hn => ?_
      rw [mem_bandTiles, not_lt] at hn
      exact View.tile_of_band (s := s) (u := { s with bandHeight := height.toNat }) rfl rfl rfl rfl h.band hband hn

theorem keepsDrive_reqSetTone (p : PortId) (tag entry primary present secondary mix amplitude onTicks offTicks
    repeats : Byte) : KeepsDrive (reqSetTone p tag entry primary present secondary mix amplitude onTicks offTicks
      repeats) := keepsDrive_admission fun _ s h => by
  unfold runSetTone State.setTone
  simp only
  split
  · exact h.of_eq rfl rfl rfl rfl rfl rfl
  · split_ifs <;> exact h.of_eq rfl rfl rfl rfl rfl rfl

theorem keepsDrive_reqChime (p : PortId) (tag tone : Byte) : KeepsDrive (reqChime p tag tone) :=
  keepsDrive_admission fun _ s h => by
    unfold runChime
    split_ifs
    · exact h
    · exact h
    · exact h.of_eq rfl rfl rfl rfl rfl rfl

theorem keepsDrive_reqPanelTest (p : PortId) (tag setting : Byte) : KeepsDrive (reqPanelTest p tag setting) :=
  keepsDrive_admission fun _ s h => keepsDrive_setRemoteTest _ s h

theorem keepsDrive_reqBlank (p : PortId) (tag setting : Byte) : KeepsDrive (reqBlank p tag setting) :=
  keepsDrive_admission fun _ s h => keepsDrive_setBlank _ s h

theorem keepsDrive_setTime (seconds : BitVec 32) : KeepsDrive (State.setTime seconds) := fun s h => by
  have htime : ({ s with time := ⟨0, seconds, s.time.phase, false, false⟩ } : State).DriveLaws :=
    h.of_eq rfl rfl rfl rfl rfl rfl
  unfold State.setTime
  simp only
  split_ifs
  · exact htime.listEvent listOnly_unshelveExpired
  · exact (keepsDrive_setPhase true _ htime).listEvent listOnly_unshelveExpired

theorem keepsDrive_reqSetTime (p : PortId) (tag : Byte) (seconds : BitVec 32) :
    KeepsDrive (reqSetTime p tag seconds) := keepsDrive_admission fun _ =>
  keepsDrive_afterDue keepsDrive_settle fun s h => keepsDrive_setTime seconds s h

/-! ### Frames, the receive buffer and transmissions (R174, R180, R192) -/

theorem keepsDrive_carry (p : PortId) (tag : Byte) (rc : RequestCode) (ops : List Byte) :
    KeepsDrive (carry p tag rc ops) := by
  unfold carry
  split
  case h_3 => exact keepsDrive_statusArrives p tag ops
  all_goals
    split
    case h_2 => exact keepsDrive_badLength p tag _
  · exact keepsDrive_reqAttach _ _ _ _ _
  · exact keepsDrive_reqDetach _ _
  · exact keepsDrive_reqResetPort _ _
  · exact keepsDrive_reqSetFilter _ _ _ _ _ _ _ _ _
  · exact keepsDrive_reqSetNotices _ _ _
  · exact keepsDrive_reqWaitSettled _ _ _ _
  · exact keepsDrive_reqOpenWindow _ _ _ _ _ _ _
  · exact keepsDrive_reqCloseWindow _ _ _
  · exact keepsDrive_reqMoveWindow _ _ _ _ _ _
  · exact keepsDrive_reqSetWindow _ _ _ _ _ _
  · exact keepsDrive_reqWriteCells _ _ _ _ _ _
  · exact keepsDrive_reqFillCells _ _ _ _ _ _ _ _ _
  · exact keepsDrive_reqReadCells _ _ _ _ _ _
  · exact keepsDrive_reqFlush _ _ _
  · exact keepsDrive_reqFullRefresh _ _ _ _
  · exact keepsDrive_reqSetRefreshPeriod _ _ _
  · exact keepsDrive_reqSetHold _ _ _
  · exact keepsDrive_reqClearDriveFault _ _
  · exact keepsDrive_reqRaiseAlert _ _ _ _ _ _ _ _ _
  · exact keepsDrive_reqClearAlert _ _ _
  · exact keepsDrive_reqAckAlert _ _ _ _
  · exact keepsDrive_reqShelveAlert _ _ _ _ _
  · exact keepsDrive_reqUnshelveAlert _ _ _ _
  · exact keepsDrive_reqListAlerts _ _ _
  · exact keepsDrive_reqSetBanner _ _ _
  · exact keepsDrive_reqSetTone _ _ _ _ _ _ _ _ _ _ _
  · exact keepsDrive_reqChime _ _ _
  · exact keepsDrive_reqPanelTest _ _ _
  · exact keepsDrive_reqBlank _ _ _
  · exact keepsDrive_reqSetTime _ _ _

theorem keepsDrive_carryBody (p : PortId) (body : List Byte) : KeepsDrive (carryBody p body) := by
  unfold carryBody
  split
  · split
    · exact keepsDrive_carry _ _ _ _
    · exact fun s h => keepsDrive_refuse _ _ _ _ s h
  · exact fun _ h => h

theorem keepsDrive_takeRequest (p : PortId) : KeepsDrive (State.takeRequest p) := fun s h => by
  unfold State.takeRequest
  split
  · exact h
  · split_ifs
    · exact keepsDrive_carryBody p _ _ (keepsDrive_modifyPort p _ s h)
    · exact h

theorem keepsDrive_requestArrives (p : PortId) (body : List Byte) : KeepsDrive (State.requestArrives p body) :=
  fun s h => by
    unfold State.requestArrives
    split
    · exact keepsDrive_statusArrives p _ _ s h
    · exact keepsDrive_takeRequest p _ (keepsDrive_modifyPort p _ s h)

theorem keepsDrive_restartKeepalive (p : PortId) : KeepsDrive (State.restartKeepalive p) :=
  (keepsDrive_secondFirst p).comp (keepsDrive_modifyPort p _)

theorem keepsDrive_frame (p : PortId) (r : Received) : KeepsDrive (State.frame p r) := fun s h => by
  unfold State.frame
  split
  · exact h
  · exact keepsDrive_modifyPort p _ s h
  · exact keepsDrive_modifyPort p _ _ (keepsDrive_restartKeepalive p s h)
  · exact keepsDrive_requestArrives p _ _ (keepsDrive_restartKeepalive p s h)

theorem keepsDrive_firstOf (p : PortId) (body : List Byte) : KeepsDrive (firstOf p body) := by
  unfold firstOf
  split
  · split
    · exact keepsDrive_secondFirst p
    · exact keepsDrive_secondFirst p
    · exact (keepsDrive_secondFirst p).comp keepsDrive_expiryFirst
    · exact keepsDrive_settle
    · exact fun _ h => h
  · exact fun _ h => h

theorem keepsDrive_endTransmission (p : PortId) : KeepsDrive (State.endTransmission p) := fun s h => by
  have hbefore : (s.beforeEnd p).DriveLaws := by
    unfold State.beforeEnd
    split
    · exact h
    · split_ifs
      · exact keepsDrive_firstOf p _ s h
      · exact h
  exact keepsDrive_takeRequest p _ (keepsDrive_modifyPort p _ _ hbefore)

/-! ### The rows that are neither requests nor events -/

/-- A tick counts a frame of each job and the rail's timer, and nothing composed changes (R55, R76, R163). -/
theorem keepsDrive_tick (ack silence test : Bool) : KeepsDrive (State.tick ack silence test) := fun s h => by
  have hengine (e : EngineId) : (s.tick ack silence test).engines[e] = s.engines[e].map Job.tick := by
    fin_cases e <;> rfl
  have hjob {e : EngineId} {j : Job} (hj : (s.tick ack silence test).engines[e] = some j) :
      ∃ i, s.engines[e] = some i ∧ i.tick = j := by rwa [hengine, Option.map_eq_some_iff] at hj
  have hfree : (s.tick ack silence test).freeEngine = s.freeEngine := by
    unfold State.freeEngine
    congr 1
    funext e
    rw [hengine, Option.isNone_map]
  have hbusy : (s.tick ack silence test).anyBusy = s.anyBusy := by
    rw [Bool.eq_iff_iff, State.anyBusy, State.anyBusy, vector_any_iff, vector_any_iff]
    simp only [hengine, Option.isSome_map]
  have hon : (s.tick ack silence test).railOn = s.railOn := by
    show State.railOn { s with rail := { s.rail with state := s.rail.state.tick } } = s.railOn
    unfold State.railOn
    cases s.rail.state <;> rfl
  refine ⟨⟨h.band, ⟨fun e j hj => ?_, fun e j hj => ?_, fun d e i j hi hj hij => ?_, fun n hn => ?_, fun hoff e => ?_,
    h.drive.counts, fun e j hj => ?_⟩, h.tiles⟩, ?_⟩
  · obtain ⟨i, hi, rfl⟩ := hjob hj
    exact (Nat.sub_le _ _).trans (h.drive.frames e i hi)
  · obtain ⟨i, hi, rfl⟩ := hjob hj
    exact h.drive.driving e i hi
  · obtain ⟨i', hi', rfl⟩ := hjob hi
    obtain ⟨j', hj', rfl⟩ := hjob hj
    exact h.drive.apart d e i' j' hi' hj' hij
  · obtain ⟨e, j, hj, hjn⟩ := h.drive.held n hn
    exact ⟨e, j.tick, by rw [hengine, hj]; rfl, hjn⟩
  · rw [hengine, h.drive.busy (hon ▸ hoff) e]
    rfl
  · obtain ⟨i, hi, rfl⟩ := hjob hj
    exact h.drive.partials e i hi
  · obtain ⟨hok, hanswer⟩ := s.railOk_iff.mp h.rail
    have hrail : (s.tick ack silence test).rail = { s.rail with state := s.rail.state.tick } := rfl
    have hwait : (s.tick ack silence test).anyWaiting = s.anyWaiting := rfl
    rw [Rail.ok_iff] at hok
    rw [State.engineTaken_iff] at hanswer
    rw [State.railOk_iff, Rail.ok_iff, State.engineTaken_iff, hrail, hwait, hbusy, hfree]
    obtain ⟨hhold, hrange⟩ := hok
    refine ⟨⟨hhold, ?_⟩, ?_⟩
    · cases hs : s.rail.state with
      | off => simpa [hs, RailState.tick] using hrange
      | rising n =>
        rw [hs] at hrange
        exact ⟨(Nat.sub_le _ _).trans hrange.1, hrange.2⟩
      | on x =>
        rw [hs] at hrange
        refine ⟨hrange.1, fun n hn => ?_⟩
        obtain ⟨m, hm, rfl⟩ := Option.map_eq_some_iff.mp hn
        exact (Nat.sub_le _ _).trans (hrange.2 m hm)
      | falling n =>
        rw [hs] at hrange
        exact ⟨(Nat.sub_le _ _).trans hrange.1, hrange.2⟩
      | fault r =>
        rw [hs] at hrange
        cases r with
        | none => exact hrange
        | some n => exact ⟨(Nat.sub_le _ _).trans hrange.1, hrange.2⟩
    · cases hs : s.rail.state with
      | on x =>
        rw [hs] at hanswer
        exact ⟨hanswer.1, (Option.isSome_map ..).trans hanswer.2⟩
      | off =>
        rw [hs] at hanswer
        exact hanswer
      | _ => trivial

/-- JOB_START hands what could be handed, and in a state that keeps the laws nothing can (R61, R81). -/
theorem State.DriveLaws.jobStart {s : State} (h : s.DriveLaws) : s.handOne.checkHold.DriveLaws := by
  obtain ⟨hok, hanswer⟩ := s.railOk_iff.mp h.rail
  have hrange := s.rail.ok_iff.mp hok
  cases hs : s.rail.state with
  | on x =>
    rw [hs] at hanswer hrange
    rw [State.handOne_engineTaken hanswer.1]
    refine ⟨h.toPictureOk.checkHold, State.railOk_of_holdAfter (h := x) (k := s.rail.holdSetting) ?_ hrange.1
      hrange.2.2 (State.engineTaken_checkHold hanswer.1)⟩
    rw [State.checkHold_rail hs, ← hrange.2.1]
  | _ =>
    have hhand : s.handOne = s := by
      unfold State.handOne State.railOn
      rw [hs]
      rfl
    have hhold : s.checkHold = s := by
      unfold State.checkHold
      rw [hs]
    rw [hhand, hhold]
    exact h

/-- Power-on reset in any state: every tile is UNKNOWN with its panel values, every engine free (R48, R77). -/
theorem State.powerOn_driveLaws (s : State) : s.powerOn.driveReact.DriveLaws := by
  have hreset : State.reset.PictureOk :=
    ⟨rfl, State.reset.driveOk_iff.mp State.reset_driveOk, State.reset_tileOk⟩
  have hoff : ({ State.reset with rail := ⟨.off, 0, 3⟩ } : State).PictureOk :=
    hreset.of_rail State.reset_engines_get _
  exact (hoff.of_eq (t := s.powerOn) rfl rfl rfl rfl rfl rfl).driveReact rfl

/-! ### Every row, every step -/

theorem KeepsDrive.takeDirect {p : PortId} {request : State → State} (hf : KeepsDrive request) {s : State}
    (h : s.DriveLaws) : ∃ t, takeDirect p request s = .next t ∧ t.DriveLaws := by
  refine ⟨_, rfl, ?_⟩
  split_ifs
  · exact keepsDrive_finish _ (hf s h)
  · exact h

/-- Every command is answered with a state that keeps the laws on tiles, engines and rail. -/
theorem exec_driveLaws (i : Instr) {s : State} (h : s.DriveLaws) : ∃ t, exec i s = .next t ∧ t.DriveLaws := by
  have hwhole {f : State → State} (hf : KeepsDrive f) : (s.whole f).DriveLaws := hf.whole s h
  cases i with
  | powerOnReset => exact ⟨_, rfl, keepsDrive_finish _ s.powerOn_driveLaws⟩
  | frameReceived p line =>
    exact ⟨_, rfl, keepsDrive_finish _ (keepsDrive_frame p _ _ (keepsDrive_lossFirst p s h))⟩
  | takeRequest p => exact ⟨_, rfl, keepsDrive_finish _ (keepsDrive_takeRequest p s h)⟩
  | transmissionStart p => exact ⟨_, rfl, keepsDrive_modifyPort p _ s h⟩
  | transmissionEnd p => exact ⟨_, rfl, keepsDrive_finish _ (keepsDrive_endTransmission p s h)⟩
  | attach => exact (keepsDrive_reqAttach _ _ _ _ _).takeDirect h
  | detach => exact (keepsDrive_reqDetach _ _).takeDirect h
  | status p tag extra => exact ⟨_, rfl, keepsDrive_finish _ (keepsDrive_statusArrives p tag extra s h)⟩
  | resetPort => exact (keepsDrive_reqResetPort _ _).takeDirect h
  | setFilter => exact (keepsDrive_reqSetFilter _ _ _ _ _ _ _ _ _).takeDirect h
  | setNotices => exact (keepsDrive_reqSetNotices _ _ _).takeDirect h
  | waitSettled => exact (keepsDrive_reqWaitSettled _ _ _ _).takeDirect h
  | waitTimeout p => exact ⟨_, rfl, hwhole (keepsDrive_timeOutWait p)⟩
  | portLoss p => exact ⟨_, rfl, hwhole (keepsDrive_loseIfDue p)⟩
  | openWindow => exact (keepsDrive_reqOpenWindow _ _ _ _ _ _ _).takeDirect h
  | closeWindow => exact (keepsDrive_reqCloseWindow _ _ _).takeDirect h
  | moveWindow => exact (keepsDrive_reqMoveWindow _ _ _ _ _ _).takeDirect h
  | setWindow => exact (keepsDrive_reqSetWindow _ _ _ _ _ _).takeDirect h
  | writeCells => exact (keepsDrive_reqWriteCells _ _ _ _ _ _).takeDirect h
  | fillCells => exact (keepsDrive_reqFillCells _ _ _ _ _ _ _ _ _).takeDirect h
  | readCells => exact (keepsDrive_reqReadCells _ _ _ _ _ _).takeDirect h
  | flush => exact (keepsDrive_reqFlush _ _ _).takeDirect h
  | jobStart => exact ⟨_, rfl, keepsDrive_finish _ h.jobStart⟩
  | jobCompletion e => exact ⟨_, rfl, hwhole (keepsDrive_completeJob e)⟩
  | fullRefreshExpiry => exact ⟨_, rfl, hwhole keepsDrive_expireRefresh⟩
  | fullRefresh => exact (keepsDrive_reqFullRefresh _ _ _ _).takeDirect h
  | setRefreshPeriod => exact (keepsDrive_reqSetRefreshPeriod _ _ _).takeDirect h
  | powerGoodAsserted => exact ⟨_, rfl, hwhole keepsDrive_assertPowerGood⟩
  | powerGoodLost => exact ⟨_, rfl, hwhole keepsDrive_losePowerGood⟩
  | riseTimerExpiry => exact ⟨_, rfl, hwhole keepsDrive_expireRise⟩
  | holdTimerExpiry => exact ⟨_, rfl, hwhole keepsDrive_expireHold⟩
  | fallTimerExpiry => exact ⟨_, rfl, hwhole keepsDrive_expireFall⟩
  | retryTimerExpiry => exact ⟨_, rfl, hwhole keepsDrive_expireRetry⟩
  | setHold => exact (keepsDrive_reqSetHold _ _ _).takeDirect h
  | clearDriveFault => exact (keepsDrive_reqClearDriveFault _ _).takeDirect h
  | raiseAlert => exact (keepsDrive_reqRaiseAlert _ _ _ _ _ _ _ _ _).takeDirect h
  | clearAlert => exact (keepsDrive_reqClearAlert _ _ _).takeDirect h
  | ackAlert => exact (keepsDrive_reqAckAlert _ _ _ _).takeDirect h
  | shelveAlert => exact (keepsDrive_reqShelveAlert _ _ _ _ _).takeDirect h
  | unshelveAlert => exact (keepsDrive_reqUnshelveAlert _ _ _ _).takeDirect h
  | shelvingExpiry => exact ⟨_, rfl, hwhole keepsDrive_expireShelving⟩
  | listAlerts => exact (keepsDrive_reqListAlerts _ _ _).takeDirect h
  | setBanner => exact (keepsDrive_reqSetBanner _ _ _).takeDirect h
  | periodEnd => exact ⟨_, rfl, hwhole keepsDrive_endPeriod⟩
  | setTone => exact (keepsDrive_reqSetTone _ _ _ _ _ _ _ _ _ _ _).takeDirect h
  | chime => exact (keepsDrive_reqChime _ _ _).takeDirect h
  | ackPress => exact ⟨_, rfl, hwhole keepsDrive_pressAck⟩
  | ackHold => exact ⟨_, rfl, hwhole keepsDrive_holdAck⟩
  | ackRelease => exact ⟨_, rfl, hwhole keepsDrive_releaseAck⟩
  | silencePress => exact ⟨_, rfl, hwhole keepsDrive_pressSilence⟩
  | silenceRelease => exact ⟨_, rfl, hwhole keepsDrive_releaseSilence⟩
  | testPress => exact ⟨_, rfl, hwhole keepsDrive_pressTest⟩
  | testRelease => exact ⟨_, rfl, hwhole keepsDrive_releaseTest⟩
  | panelTest => exact (keepsDrive_reqPanelTest _ _ _).takeDirect h
  | blank => exact (keepsDrive_reqBlank _ _ _).takeDirect h
  | tickEvent ack silence test =>
    exact ⟨_, rfl, keepsDrive_finish _ (keepsDrive_tick ack silence test _ (keepsDrive_settle s h))⟩
  | secondEvent => exact ⟨_, rfl, hwhole keepsDrive_takeSecond⟩
  | blinkEvent => exact ⟨_, rfl, hwhole keepsDrive_takeBlink⟩
  | setTime => exact (keepsDrive_reqSetTime _ _ _).takeDirect h

/-- A step keeps the laws on tiles, engines and rail, the band height's range among them. -/
theorem step_driveLaws {s t : State} (hst : step s = .next t) (h : s.DriveLaws) : t.DriveLaws := by
  unfold step at hst
  split at hst
  · exact Host.Outcome.next.inj hst ▸ h
  · next i rest _ =>
    have hrest : ({ s with pending := rest } : State).DriveLaws := h.of_eq rfl rfl rfl rfl rfl rfl
    obtain ⟨u, hu, hlaws⟩ := exec_driveLaws i hrest
    exact Host.Outcome.next.inj (hst.symm.trans hu) ▸ hlaws

/-- Settles O59: the laws, taken together with the band height's range (`State.DriveLaws`), are kept row by row. -/
theorem everyStepKeepsTheDrive : Obligations.EveryStepKeepsTheDrive := by
  unfold Obligations.EveryStepKeepsTheDrive
  intro s t hst hband hdrive htiles hrail
  have h := step_driveLaws hst ⟨⟨hband, s.driveOk_iff.mp hdrive, s.tilesOk_iff.mp htiles⟩, hrail⟩
  exact ⟨t.driveOk_iff.mpr h.drive, t.tilesOk_iff.mpr h.tiles, h.rail⟩

end Sys2Proof.Machine
end

section
/-!
PROOF. Stale-tile reports and what they rest on (O30): the record after a report, the five sources of a cell in their
order, the eight cells of a tile, and staleness.
-/

namespace Sys2Proof.Machine

/-! ### A report by the tile's state (R49) -/

theorem TileRec.report_settled {r : TileRec} (h : r.state = .settled) (stamp : Stamp) :
    r.report stamp true = { r with state := .pending stamp } ∧ r.report stamp false = r := by
  unfold TileRec.report
  rw [h]
  exact ⟨rfl, rfl⟩

theorem TileRec.report_pending {r : TileRec} {since : Stamp} (h : r.state = .pending since) (stamp : Stamp) :
    r.report stamp true = r ∧ (r.fullDue = false → r.report stamp false = { r with state := .settled }) ∧
      (r.fullDue = true → r.report stamp false = r) := by
  unfold TileRec.report
  rw [h]
  exact ⟨rfl, fun hdue => by rw [hdue]; rfl, fun hdue => by rw [hdue]; rfl⟩

theorem TileRec.report_driven {r : TileRec} (h : r.state = .driving) (stamp : Stamp) (stale : Bool) :
    r.report stamp stale = r := by
  unfold TileRec.report
  rw [h]

theorem TileRec.report_unknown {r : TileRec} {since : Stamp} (h : r.state = .unknown since) (stamp : Stamp)
    (stale : Bool) : r.report stamp stale = r := by
  unfold TileRec.report
  rw [h]

/-! ### The banner as a source (R121, R122) -/

theorem Alert.eligible_eq (a : Alert) : a.eligible = decide (a.shelved = none ∧ a.state.stage ≠ .activeAck) := by
  unfold Alert.eligible
  cases a.shelved <;> cases a.state <;> rfl

theorem ranked_eq_bySeverity (l : List Alert) : ranked l = bySeverity l := by
  simp [ranked, bySeverity, ofSeverity]

/-- The records the banner shows are the Compositor's selection. -/
theorem State.bannerRecords_eq_selection (s : State) : s.bannerRecords = selection s.alerts := by
  rw [State.bannerRecords, selection, ranked_eq_bySeverity, ← funext Alert.eligible_eq]

theorem bandOf_eq_none {l : List Alert} (h : selection l = []) (height : Nat) : bandOf l height = none := by
  unfold bandOf
  rw [h]

theorem bandOf_eq_some {l : List Alert} (h : selection l ≠ []) (height : Nat) :
    ∃ b, bandOf l height = some b ∧ b.height = height := by
  unfold bandOf
  cases hl : selection l with
  | nil => exact absurd hl h
  | cons a rest => exact ⟨_, rfl, rfl⟩

/-! ### The selected value of a cell, source by source (R4) -/

theorem State.selected_of_test {s : State} (h : s.panelTest = true) (row col : Nat) :
    s.view.selected row col = fullBlock := if_pos h

theorem State.selected_of_blank {s : State} (ht : s.panelTest = false) (hb : s.blank = true) (row col : Nat) :
    s.view.selected row col = background := by
  unfold View.selected State.view
  rw [ht, hb]
  rfl

theorem State.selected_of_banner {s : State} (ht : s.panelTest = false) (hb : s.blank = false) {b : Band}
    (hband : bandOf s.alerts s.bandHeight = some b) {row : Nat} (hr : row < s.bandHeight) (col : Nat) :
    s.view.selected row col = b.cell row col := by
  unfold View.selected State.view
  rw [ht, hb, hband]
  have hrow : row < b.height := by rwa [bandOf_height hband]
  exact if_pos hrow

/-- Outside the band of a showing banner the windows supply the cell. -/
theorem State.selected_of_windows {s : State} (ht : s.panelTest = false) (hb : s.blank = false) {row : Nat}
    (hr : s.bannerRecords = [] ∨ s.bandHeight ≤ row) (col : Nat) :
    s.view.selected row col = windowCell s.windows.toList row col := by
  unfold View.selected State.view
  rw [ht, hb]
  cases hband : bandOf s.alerts s.bandHeight with
  | none => rfl
  | some b =>
    refine if_neg (not_lt.mpr ?_)
    rcases hr with hnone | hlow
    · rw [State.bannerRecords_eq_selection] at hnone
      rw [bandOf_eq_none hnone] at hband
      exact absurd hband (by simp)
    · rwa [bandOf_height hband]

theorem State.shows_of_selected {s : State} {row col : Nat} {c : CellValue} (h : s.view.selected row col = c) :
    s.shows row col c := by
  unfold State.shows View.composed blinked
  rw [h]
  refine if_congr ?_ rfl rfl
  rw [Bool.and_eq_true, Bool.not_eq_true']
  exact Iff.rfl

/-! ### The highest visible window that holds a cell (R5) -/

/-- An offer that every other one is below is the best of the list. -/
theorem foldl_betterOffer_eq {l : List (Option (Nat × CellValue))} {best : Option (Nat × CellValue)}
    {x : Nat × CellValue} (hx : some x ∈ l ∨ best = some x)
    (hlow : ∀ y, some y ∈ l ∨ best = some y → y = x ∨ y.1 < x.1) : l.foldl betterOffer best = some x := by
  induction l generalizing best with
  | nil => exact hx.resolve_left (by simp)
  | cons e l ih =>
    have hnew : betterOffer best e = best ∨ betterOffer best e = e := by
      unfold betterOffer
      split
      · exact Or.inl rfl
      · exact Or.inr rfl
      · split_ifs
        · exact Or.inr rfl
        · exact Or.inl rfl
    have hfirst : e = some x ∨ best = some x → betterOffer best e = some x := by
      intro hor
      cases e with
      | none => exact hor.resolve_left (by simp)
      | some y =>
        cases best with
        | none => exact hor.resolve_right (by simp)
        | some b =>
          have hy := hlow y (Or.inl (List.mem_cons_self ..))
          have hb := hlow b (Or.inr rfl)
          rw [betterOffer]
          split_ifs with hlt
          · rcases hy with rfl | hy
            · rfl
            · obtain rfl : b = x := Option.some.inj (hor.resolve_left fun h => by
                rw [Option.some.inj h] at hy
                exact lt_irrefl _ hy)
              exact absurd (hlt.trans hy) (lt_irrefl _)
          · rcases hb with rfl | hb
            · rfl
            · obtain rfl : y = x := Option.some.inj (hor.resolve_right fun h => by
                rw [Option.some.inj h] at hb
                exact lt_irrefl _ hb)
              exact absurd hb hlt
    rw [List.foldl_cons]
    refine ih ?_ fun y hy => hlow y ?_
    · rw [List.mem_cons] at hx
      rcases hx with (hx | hx) | hx
      · exact Or.inr (hfirst (Or.inl hx.symm))
      · exact Or.inl hx
      · exact Or.inr (hfirst (Or.inr hx))
    · rcases hy with hy | hy
      · exact Or.inl (List.mem_cons_of_mem _ hy)
      · rcases hnew with h | h
        · exact Or.inr (h.symm.trans hy)
        · exact Or.inl (List.mem_cons.mpr (Or.inl (h.symm.trans hy).symm))

/-- An offer made at a cell is that of an OPEN, visible window that holds it. -/
theorem mem_offers {ws : Vector (Option Window) 16} {row col : Nat} {x : Nat × CellValue} :
    some x ∈ ws.toList.map (offerOf row col) ↔ ∃ (i : WindowId) (w : Window), ws[i] = some w ∧ w.visible = true ∧
      w.rect.holds row col = true ∧ w.bid row col = x := by
  have hoffer (e : Option Window) : offerOf row col e = some x ↔ ∃ w, e = some w ∧ w.visible = true ∧
      w.rect.holds row col = true ∧ w.bid row col = x := by
    cases e with
    | none => simp [offerOf]
    | some w =>
      simp only [offerOf, Option.bind_some, Window.offer, Option.some.injEq, exists_eq_left',
        Option.ite_none_right_eq_some, Bool.and_eq_true, and_assoc]
  simp only [List.mem_map, Vector.mem_toList_iff, Vector.mem_iff_getElem, hoffer]
  constructor
  · rintro ⟨_, ⟨i, hi, rfl⟩, w, hw⟩
    exact ⟨⟨i, hi⟩, w, hw⟩
  · rintro ⟨i, w, hw⟩
    exact ⟨_, ⟨i, i.isLt, rfl⟩, w, hw⟩

/-- The visible window of highest level that holds a cell supplies it, from its published copy or its working
content. -/
theorem windowCell_of_highest {ws : Vector (Option Window) 16} {row col : Nat} {i : WindowId} {w : Window}
    {c : CellValue} (hw : ws[i] = some w) (hv : w.visible = true) (hh : w.rect.holds row col = true)
    (hlow : ∀ (j : WindowId) (v : Window), j ≠ i → ws[j] = some v → v.visible = true →
      v.rect.holds row col = true → v.level < w.level)
    (hc : (w.published.getD w.working)[(row - w.row) * w.width + (col - w.col)]? = some c) :
    windowCell ws.toList row col = c := by
  have hbid : w.bid row col = (w.level, c) := by
    rw [Window.bid, Window.shown, List.getD_eq_getElem?_getD, hc]
    rfl
  have hbest : (ws.toList.map (offerOf row col)).foldl betterOffer none = some (w.level, c) := by
    refine foldl_betterOffer_eq (Or.inl (mem_offers.mpr ⟨i, w, hw, hv, hh, hbid⟩)) fun y hy => ?_
    obtain ⟨j, v, hvj, hvis, hholds, rfl⟩ := mem_offers.mp (hy.resolve_right (by simp))
    by_cases hji : j = i
    · subst hji
      obtain rfl : w = v := Option.some.inj (hw.symm.trans hvj)
      exact Or.inl hbid
    · exact Or.inr (hlow j v hji hvj hvis hholds)
  rw [windowCell_eq_offers, hbest]
  rfl

/-- A cell that no visible window holds is background. -/
theorem windowCell_of_none {ws : Vector (Option Window) 16} {row col : Nat}
    (h : ∀ (i : WindowId) (w : Window), ws[i] = some w → w.visible = true → w.rect.holds row col = false) :
    windowCell ws.toList row col = background := by
  have hoffer (i : WindowId) : offerOf row col ws[i] = none := by
    cases hw : ws[i] with
    | none => rfl
    | some w =>
      refine if_neg fun hpart => ?_
      obtain ⟨hv, hh⟩ := Bool.and_eq_true_iff.mp hpart
      exact absurd ((h i w hw hv).symm.trans hh) (by decide)
  rw [windowCell_congr (ws := Vector.replicate 16 none) fun i => by rw [hoffer]; simp [offerOf]]
  rfl

/-! ### The cells of a tile, and staleness (R2, R10, R13) -/

theorem View.tile_cell (v : View) (n : TileId) {k : Nat} (h : k < 8) :
    (v.tile n)[k] = v.composed (tileRow n) (tileCol n + k) := by
  unfold View.tile
  interval_cases k <;> rfl

theorem known_cell (t : Vector CellValue 8) {k : Nat} (h : k < 8) : (known t)[k] = some t[k] := by
  unfold known
  interval_cases k <;> rfl

/-- A tile is stale exactly where a panel value of it is unknown or not the composed value (R10). -/
theorem tileStale_iff (v : View) (panel : Vector (Vector (Option CellValue) 8) 40) (n : TileId) :
    tileStale v panel n = true ↔
      ∃ (k : Nat) (h : k < 8), panel[n][k] ≠ some (v.composed (tileRow n) (tileCol n + k)) := by
  rw [tileStale, decide_eq_true_iff, ← not_iff_not, not_ne_iff]
  simp only [not_exists, not_ne_iff]
  constructor
  · intro h k hk
    rw [h, known_cell _ hk, View.tile_cell _ _ hk]
  · intro h
    refine Vector.ext fun k hk => ?_
    rw [h k hk, known_cell _ hk, View.tile_cell _ _ hk]

/-- Settles O30: the report by the record's state, the sources of a cell in the order of R4, a tile's cells. -/
theorem staleTileReports : Obligations.StaleTileReports := by
  unfold Obligations.StaleTileReports
  refine ⟨fun r stamp => ⟨fun h => r.report_settled h stamp, fun since h => TileRec.report_pending h stamp,
    fun h => TileRec.report_driven h stamp, fun since h => TileRec.report_unknown h stamp⟩,
    fun s row col => ⟨fun ht => ?_, fun ht hb => ?_, fun ht hb hbanner hr => ?_, fun ht hb hr => ⟨?_, ?_⟩⟩,
    fun s n => ⟨fun k hk => View.tile_cell _ n hk, tileStale_iff _ _ n⟩⟩
  · exact State.shows_of_selected (State.selected_of_test ht row col)
  · exact State.shows_of_selected (State.selected_of_blank ht hb row col)
  · rw [State.bannerRecords_eq_selection] at hbanner
    obtain ⟨b, hband, _⟩ := bandOf_eq_some hbanner s.bandHeight
    exact ⟨b, hband, State.shows_of_selected (State.selected_of_banner ht hb hband hr col)⟩
  · intro i w c hw hv hh hlow hc
    exact State.shows_of_selected
      ((State.selected_of_windows ht hb hr col).trans (windowCell_of_highest hw hv hh hlow hc))
  · intro hnone
    exact State.shows_of_selected ((State.selected_of_windows ht hb hr col).trans (windowCell_of_none hnone))

end Sys2Proof.Machine
end

section
/-!
PROOF. JOB_START (O31): the class of a tile by what supplies the band, and the one handing it makes.
-/

namespace Sys2Proof.Machine

/-! ### The class of a tile (R62) -/

theorem State.bannerShowing_iff (s : State) : s.bannerShowing = true ↔ s.bannerRecords ≠ [] := by
  have hempty (l : List Alert) : bySeverity l = [] ↔ l = [] := by
    refine ⟨fun h => List.eq_nil_iff_forall_not_mem.mpr fun a ha => ?_, fun h => by rw [h]; rfl⟩
    simp only [bySeverity, ofSeverity, List.append_eq_nil_iff, List.filter_eq_nil_iff, decide_eq_true_eq] at h
    obtain ⟨⟨hwarning, hcaution⟩, hadvisory⟩ := h
    cases hs : a.severity with
    | warning => exact hwarning a ha hs
    | caution => exact hcaution a ha hs
    | advisory => exact hadvisory a ha hs
  rw [State.bannerRecords_eq_selection, selection, ne_eq, hempty, State.bannerShowing, List.filter_eq_nil_iff]
  simp

/-- The banner supplies the band while it shows a record and no overlay stands over it (R62). -/
theorem State.bannerComposed_iff (s : State) : s.bannerComposed = true ↔ s.bannerRecords ≠ [] ∧
    s.keys.test.held = false ∧ s.remoteTest = false ∧ s.blank = false := by
  rw [State.bannerComposed, Bool.and_eq_true, Bool.and_eq_true, s.bannerShowing_iff, State.panelTest, Bool.not_eq_true',
    Bool.or_eq_false_iff, Bool.not_eq_true', and_assoc, and_assoc]

theorem State.tileClass_of_band {s : State} {n : TileId} (h : s.bannerComposed = true ∧ tileRow n < s.bandHeight) :
    s.tileClass n = 1 := if_pos h

theorem State.tileClass_of_unknown {s : State} {n : TileId} (h : ¬(s.bannerComposed = true ∧ tileRow n < s.bandHeight))
    {a : Stamp} (hn : s.tiles[n].state = .unknown a) : s.tileClass n = 2 := by
  unfold State.tileClass
  rw [if_neg h, hn]

theorem State.tileClass_of_other {s : State} {n : TileId} (h : ¬(s.bannerComposed = true ∧ tileRow n < s.bandHeight))
    (hn : ∀ a, s.tiles[n].state ≠ .unknown a) : s.tileClass n = 3 := by
  unfold State.tileClass
  rw [if_neg h]
  cases hs : s.tiles[n].state with
  | unknown a => exact absurd hs (hn a)
  | _ => rfl

/-! ### The handing (R54, R61 to R63) -/

theorem State.freeEngine_eq_some {s : State} {e : EngineId} (he : s.engines[e] = none)
    (hd : ∀ d < e, s.engines[d] ≠ none) : s.freeEngine = some e := by
  cases hf : s.freeEngine with
  | none => exact absurd he ((s.freeEngine_none).mp hf e)
  | some d =>
    rcases lt_trichotomy d e with h | h | h
    · exact absurd (State.freeEngine_some hf) (hd d h)
    · rw [h]
    · exact absurd he (State.freeEngine_least hf e h)

theorem State.chooseTile_eq_some {s : State} {n : TileId} {a : Stamp} (h : s.nextTile n a) : s.chooseTile = some n := by
  cases hc : s.chooseTile with
  | none =>
    have hidle := (s.anyWaiting_false).mp ((s.chooseTile_none).mp hc) n
    exact absurd (h.1.symm.trans ((TileRec.since_none _).mpr hidle)) (Option.some_ne_none a)
  | some m =>
    obtain ⟨b, hb⟩ := State.nextTile_of_chooseTile hc
    rw [State.nextTile_unique hb h]

/-- While the rail is ON and an engine is busy, the hold timer is stopped (R81). -/
theorem State.checkHold_of_busy {s : State} (hr : s.railOn = true) (hb : s.anyBusy = true) :
    s.checkHold = s.setRail (.on none) := by
  unfold State.railOn at hr
  unfold State.checkHold
  cases hs : s.rail.state with
  | on h => exact if_pos (by rw [hb, Bool.or_true])
  | _ => simp [hs] at hr

/-- Settles O31: the class by cases on what supplies the band; the handing is `handOne` with the first free engine
and the tile of `nextTile`, after which an engine is busy. -/
theorem jobStartsOnTheChosenTile : Obligations.JobStartsOnTheChosenTile := by
  unfold Obligations.JobStartsOnTheChosenTile
  refine ⟨fun s n => ?_, fun s e n a hr he hd hn => ?_⟩
  · have hband : (s.bannerRecords ≠ [] ∧ s.keys.test.held = false ∧ s.remoteTest = false ∧ s.blank = false ∧
        n.val / 5 < s.bandHeight) ↔ s.bannerComposed = true ∧ tileRow n < s.bandHeight := by
      rw [s.bannerComposed_iff, and_assoc, and_assoc, and_assoc]
      rfl
    simp only [hband]
    exact ⟨State.tileClass_of_band, fun hout => ⟨fun ⟨_, ha⟩ => State.tileClass_of_unknown hout ha,
      State.tileClass_of_other hout⟩⟩
  · have hhand : s.handOne = s.startJob e n := by
      unfold State.handOne
      rw [if_pos hr, State.freeEngine_eq_some he hd, State.chooseTile_eq_some hn]
    have hbusy : (s.startJob e n).anyBusy = true :=
      (vector_any_iff _ _).mpr ⟨e, by rw [State.startJob_eq s e hn.1, vector_set_get, if_pos rfl]; rfl⟩
    have hon : (s.startJob e n).railOn = true := by rwa [State.railOn, State.startJob_rail]
    show Host.Outcome.next s.handOne.checkHold.finish = _
    rw [hhand, State.checkHold_of_busy hon hbusy, State.startJob_eq s e hn.1]
    rfl

end Sys2Proof.Machine
end

section
/-!
PROOF. The full refresh (O33): the marks as one table of tile records, what the drive answers to them, and that this
goes on through the sounder's choice, the response and the frames begun after it.
-/

namespace Sys2Proof.Machine

/-! ### The marked tile records (R65, R69) -/

/-- The tile records with a mark on those for which `which` holds. -/
@[irreducible] def State.marked (s : State) (which : TileId → Bool) : Vector TileRec 40 :=
  Vector.ofFn fun n : TileId => if which n then s.tiles[n].markFull s.now else s.tiles[n]

theorem State.marked_tile (s : State) (which : TileId → Bool) (n : TileId) :
    (s.marked which)[n] = if which n = true then s.tiles[n].markFull s.now else s.tiles[n] := by
  unfold State.marked
  rw [Fin.getElem_fin, Vector.getElem_ofFn]

theorem State.marked_congr {s t : State} (ht : t.tiles = s.tiles) (hn : t.now = s.now) (which : TileId → Bool) :
    t.marked which = s.marked which := by
  unfold State.marked
  rw [ht, hn]

/-- Marking tile by tile is marking by the table. -/
theorem State.markTiles_eq {s : State} {ns : List TileId} (hd : ns.Nodup) {p : TileRec → Bool} {which : TileId → Bool}
    (hw : ∀ n, which n = true ↔ n ∈ ns ∧ p s.tiles[n] = true) :
    s.markTiles ns p = ({ s with tiles := s.marked which } : State).driveReact := by
  have htable : ns.foldl (fun ts (n : TileId) => if p ts[n] then ts.set n (ts[n].markFull s.now) else ts) s.tiles =
      s.marked which := by
    refine Vector.ext fun i hi => ?_
    have htile := foldl_markFull s.now p ns hd s.tiles ⟨i, hi⟩
    rw [← if_congr (hw ⟨i, hi⟩) rfl rfl, ← s.marked_tile which ⟨i, hi⟩] at htile
    exact htile
  rw [State.markTiles, htable]

theorem TileRec.markFull_settled (r : TileRec) (stamp : Stamp) : (r.markFull stamp).state ≠ .settled := by
  unfold TileRec.markFull
  simp only
  split_ifs with h
  · simp
  · exact h

/-- Marks settle no tile, so they end no wait. -/
theorem State.marked_not_settles (s : State) (which : TileId → Bool) (w : Window) :
    ¬w.settles s.tiles (s.marked which) := by
  rintro ⟨⟨n, _, hold, hnew⟩, _⟩
  rw [State.marked_tile] at hnew
  split_ifs at hnew
  · exact TileRec.markFull_settled _ _ hnew
  · exact hold hnew

/-! ### A marked tile, where the rail reaches ON at the event -/

/-- No report acts on a tile that waits for a FULL drive. -/
theorem TileRec.report_of_due {r : TileRec} (hs : r.state ≠ .settled) (hd : r.fullDue = true) (stamp : Stamp)
    (stale : Bool) : r.report stamp stale = r := by
  cases hr : r.state with
  | settled => exact absurd hr hs
  | pending a =>
    cases stale with
    | true => exact (TileRec.report_pending hr stamp).1
    | false => exact (TileRec.report_pending hr stamp).2.2 hd
  | driving => exact TileRec.report_driven hr stamp stale
  | unknown a => exact TileRec.report_unknown hr stamp stale

theorem State.compositorEvent_tile_of_due {s : State} (v : View) {ns : List TileId} (hns : ns.Nodup) {n : TileId}
    (hs : s.tiles[n].state ≠ .settled) (hd : s.tiles[n].fullDue = true) :
    (s.compositorEvent v ns).tiles[n] = s.tiles[n] := by
  by_cases hn : n ∈ ns
  · rw [s.compositorEvent_tile_mem v hns hn, TileRec.report_of_due hs hd, ite_self]
  · exact s.compositorEvent_tile_other v hn

/-- The drive's answer leaves a tile that waits for a FULL drive, but for an engine that takes it. -/
theorem State.tileKept_driveReact_of_due {s : State} {n : TileId} (hs : s.tiles[n].state ≠ .settled)
    (hd : s.tiles[n].fullDue = true) : s.tileKept s.driveReact n := by
  by_cases hr : s.risesAtOnce
  · rw [State.driveReact_off hr.1]
    split_ifs
    · rw [State.enterRising, if_pos hr.2]
      have hl := listOnly_clear .system driveFaultCode
      have htiles : ((s.setAttempts 0).clear .system driveFaultCode).tiles = s.tiles := hl.tiles _
      have hlist : ((s.setAttempts 0).listChange (State.clear .system driveFaultCode)).tiles[n] = s.tiles[n] := by
        rw [State.listChange, State.compositorEvent_tile_of_due _ bandTiles_nodup, htiles] <;> rwa [htiles]
      have hkept : s.tileKept (((s.setAttempts 0).listChange (State.clear .system driveFaultCode)).setRail (.on none))
          n := Or.inl hlist
      exact (hkept.trans (State.tileKept_arbiter _ n)).trans (State.tileKept_of_tiles (State.checkHold_tiles _) n)
    · exact s.tileKept_refl n
  · exact s.tileKept_driveReact hr n

/-! ### The drive's answer to the marks -/

/-- What O33 says of the marks, in its words: `u` is the state with the event's own changes but for the tiles, `t` the
state the event leaves, and the marks are those of `s`. -/
def State.marksTiles (s u t : State) (which : TileId → Bool) : Prop :=
  let mark := fun (r : TileRec) =>
    (⟨if r.state = .settled then .pending s.now else r.state, r.partialCount, true⟩ : TileRec)
  let marked := Vector.ofFn fun n : TileId => if which n then mark s.tiles[n] else s.tiles[n]
  ({ u with tiles := marked } : State).drawnFrom t ∧ u.drives t u.alerts marked ∧
  (∀ n : TileId, which n = true →
    t.tiles[n] = mark s.tiles[n] ∨ t.tiles[n] = { mark s.tiles[n] with state := .driving }) ∧
  (¬s.risesAtOnce → ∀ n : TileId, which n = false → s.tileKept t n)

theorem State.marksTiles_iff (s u t : State) (which : TileId → Bool) : s.marksTiles u t which ↔
    ({ u with tiles := s.marked which } : State).drawnFrom t ∧ u.drives t u.alerts (s.marked which) ∧
    (∀ n : TileId, which n = true → t.tiles[n] = s.tiles[n].markFull s.now ∨
      t.tiles[n] = { s.tiles[n].markFull s.now with state := .driving }) ∧
    (¬s.risesAtOnce → ∀ n : TileId, which n = false → s.tileKept t n) := by
  unfold State.marked
  exact Iff.rfl

/-- A marked tile stands, or an engine takes it. -/
theorem State.markedTile_driveReact {s : State} (which : TileId → Bool) {n : TileId} (hn : which n = true) :
    ({ s with tiles := s.marked which } : State).driveReact.tiles[n] = s.tiles[n].markFull s.now ∨
      ({ s with tiles := s.marked which } : State).driveReact.tiles[n] =
        { s.tiles[n].markFull s.now with state := .driving } := by
  have htile : (s.marked which)[n] = s.tiles[n].markFull s.now := (s.marked_tile which n).trans (if_pos hn)
  have hkept : ({ s with tiles := s.marked which } : State).tileKept
      ({ s with tiles := s.marked which } : State).driveReact n := by
    refine State.tileKept_driveReact_of_due ?_ ?_
    · rw [htile]
      exact TileRec.markFull_settled _ _
    · rw [htile]
      rfl
  rw [State.tileKept, htile] at hkept
  exact hkept

/-- A tile without a mark stands, or an engine takes it, where the rail does not reach ON. -/
theorem State.unmarkedTile_driveReact {s : State} (which : TileId → Bool) (hs : ¬s.risesAtOnce) {n : TileId}
    (hn : which n = false) : s.tileKept ({ s with tiles := s.marked which } : State).driveReact n := by
  have htile : (s.marked which)[n] = s.tiles[n] := (s.marked_tile which n).trans (if_neg (by rw [hn]; decide))
  have hmarked : s.tileKept { s with tiles := s.marked which } n := Or.inl htile
  exact hmarked.trans (State.tileKept_driveReact { s with tiles := s.marked which } hs n)

/-- The drive's answer to the marks, in the terms of `State.drives`. -/
theorem State.drives_marked (s : State) (which : TileId → Bool) :
    s.drives ({ s with tiles := s.marked which } : State).driveReact s.alerts (s.marked which) :=
  State.drives_driveReact (s := s) (c := { s with tiles := s.marked which }) rfl rfl rfl
    ((State.waitsFollow_of_waits fun _ => rfl).congr (fun _ => rfl) (fun _ => rfl) rfl fun _ w =>
      ⟨s.marked_not_settles which w, False.elim⟩)

/-! ### The sounder's choice, the response and the frames begun -/

/-- The drive's answer as `State.drives` tells it goes on through the sounder's choice. -/
theorem State.drives.heardSince {s t : State} {al : List Alert} {ts : Vector TileRec 40} (h : s.drives t al ts)
    (b : State) : s.drives (b.heardSince t) al ts :=
  h.of_eq (by simp) (by simp) (State.alike_of_eq (by simp) (by simp) (by simp) (by simp) (by simp) (by simp) (by simp))
    (State.alike_of_eq rfl (by simp) (by simp) (by simp) (by simp) (by simp) (by simp)) (by simp)
    (by simp [State.now]) (by simp) (by simp) (by simp) fun _ => by simp

/-- A change of the Port Units that leaves their waits. -/
theorem State.drives.of_ports {s t u : State} {al : List Alert} {ts : Vector TileRec 40} (h : s.drives t al ts)
    (hu : u = { t with ports := u.ports }) (hw : ∀ q : PortId, u.ports[q].wait = t.ports[q].wait) :
    s.drives u al ts := by
  have halike : t.alike u := by apply State.alike_of_eq <;> rw [hu]
  have halerts : ({ t with alerts := al } : State).alike { u with alerts := al } := by
    apply State.alike_of_eq <;> rw [hu]
  refine h.of_eq ?_ ?_ halike halerts ?_ ?_ ?_ ?_ ?_ hw <;> rw [hu]
  rfl

theorem State.drives.finish {s t : State} {al : List Alert} {ts : Vector TileRec 40} (h : s.drives t al ts) :
    s.drives t.finish al ts := h.of_ports rfl fun q => (t.quiet_finish q).1

/-- From a state with other Port Units, but the same waits. -/
theorem State.drives.from_ports {s r t : State} {al : List Alert} {ts : Vector TileRec 40} (h : s.drives t al ts)
    (hr : r = { s with ports := r.ports }) (hw : ∀ q : PortId, r.ports[q].wait = s.ports[q].wait) :
    r.drives t al ts := by
  have hundriven : r.undriven t al ts = s.undriven t al ts := by rw [hr]; rfl
  refine ⟨hundriven ▸ h.1, h.2.congr hw (fun _ => rfl) rfl fun _ w => ?_⟩
  rw [State.reportsEnd, hundriven, hr]
  rfl

theorem State.modifyPort_wait {s : State} {p : PortId} {f : PortUnit → PortUnit} (hf : ∀ u, (f u).wait = u.wait)
    (q : PortId) : (s.modifyPort p f).ports[q].wait = s.ports[q].wait := by
  rw [Fin.getElem_fin, State.modifyPort_port]
  split_ifs
  · exact hf _
  · rfl

/-- So with the request's response beside it. -/
theorem State.drives.answered {s t : State} {al : List Alert} {ts : Vector TileRec 40} (h : s.drives t al ts)
    (p : PortId) (tag : Byte) (rc : RequestCode) (st : Status) (r : List Byte) :
    (s.answered p tag rc st r).drives (t.reply p tag rc (some (st, r))) al ts :=
  (h.of_ports (u := t.reply p tag rc (some (st, r))) rfl (State.modifyPort_wait fun _ => rfl)).from_ports rfl
    (State.modifyPort_wait fun _ => rfl)

theorem State.driveReact_sounder (s : State) : s.driveReact.chimes = s.chimes ∧ s.driveReact.pattern = s.pattern ∧
    s.driveReact.panelTest = s.panelTest ∧ s.driveReact.tones = s.tones := by
  refine ⟨?_, ?_, ?_, ?_⟩ <;> simp [State.panelTest]

/-- The marks as an event taken whole: `b` is the state it found. -/
theorem State.marksTiles_whole {s b : State} (which : TileId → Bool)
    (hb : s = { b with refreshCount := s.refreshCount }) :
    b.marksTiles s (b.heardSince ({ s with tiles := s.marked which } : State).driveReact).finish which := by
  have hrises : b.risesAtOnce ↔ s.risesAtOnce := by rw [hb]
  have hnow : b.now = s.now := by rw [hb]; rfl
  have htiles : b.tiles = s.tiles := by rw [hb]
  have hmarked : b.marked which = s.marked which := State.marked_congr htiles hnow which
  have hpattern : b.pattern = s.pattern := by rw [hb]
  obtain ⟨hchimes, hpat, htest, htones⟩ := State.driveReact_sounder { s with tiles := s.marked which }
  refine (State.marksTiles_iff _ _ _ _).mpr ⟨?_, ?_, fun n hn => ?_, fun hr n hn => ?_⟩
  · rw [hmarked]
    refine ⟨_, (State.drawnTo_driveReact _).heard (b := b) ?_ ?_ ?_, fun hok => ?_, rfl⟩
    · rw [hb]
    · rw [hb]
      rfl
    · rw [hb]
    · refine State.hears_heardSince ?_ hpattern hchimes hpat htest htones
      rw [hb] at hok
      exact hok
  · rw [hmarked]
    exact ((s.drives_marked which).heardSince b).finish
  · rw [hnow, htiles, State.finish_tiles, State.heardSince_tiles]
    exact State.markedTile_driveReact which hn
  · have hkept := State.unmarkedTile_driveReact which (mt hrises.mpr hr) hn
    unfold State.tileKept at hkept ⊢
    rwa [htiles, State.finish_tiles, State.heardSince_tiles]

/-- The marks as a request's work, with its response. -/
theorem State.marksTiles_answered {s : State} (which : TileId → Bool) {p : PortId} (hp : s.ports[p].wait = none)
    (tag : Byte) (rc : RequestCode) (st : Status) (r : List Byte) :
    s.marksTiles (s.answered p tag rc st r)
      ((s.heardSince ({ s with tiles := s.marked which } : State).driveReact).reply p tag rc (some (st, r))).finish
      which := by
  obtain ⟨hchimes, hpat, htest, htones⟩ := State.driveReact_sounder { s with tiles := s.marked which }
  refine (State.marksTiles_iff _ _ _ _).mpr ⟨⟨_, ((State.drawnTo_driveReact { s with tiles := s.marked which }).heard
    (b := s) rfl rfl rfl).answered hp tag rc st r, fun hok => ?_, rfl⟩,
    (((s.drives_marked which).heardSince s).answered p tag rc st r).finish, fun n hn => ?_, fun hr n hn => ?_⟩
  · exact (State.hears_heardSince (s := { s with tiles := s.marked which }) hok rfl hchimes hpat htest htones).answered
      p tag rc st r
  · have htile := State.markedTile_driveReact (s := s) which hn
    rwa [← State.heardSince_tiles _ s] at htile
  · have hkept := State.unmarkedTile_driveReact which hr hn
    unfold State.tileKept at hkept ⊢
    rwa [← State.heardSince_tiles _ s] at hkept

/-- A FULL_REFRESH that marks these tiles, as a request taken by its port. -/
theorem fullRefresh_marks {s : State} {p : PortId} (hs : s.serves p) (hsup : s.supervisor = some p) (tag : Byte)
    {selector window : Byte} (hrange : fullRefreshOk selector window = true) {which : TileId → Bool}
    (hrun : runFullRefresh selector window s =
      (({ s with tiles := s.marked which } : State).driveReact, some (.ok, []))) :
    ∃ t, exec (.fullRefresh p tag selector window) s = .next t ∧ s.answers t p tag .fullRefresh .ok [] ∧
      s.marksTiles (s.answered p tag .fullRefresh .ok []) t which := by
  have hexec : exec (.fullRefresh p tag selector window) s =
      .next ((s.heardSince ({ s with tiles := s.marked which } : State).driveReact).reply p tag .fullRefresh
        (some (.ok, []))).finish := by
    have hadmitted := takeDirect_admitted hs tag .fullRefresh true (fullRefreshOk selector window) true
      (runFullRefresh selector window) rfl hrange fun _ => hsup
    rw [hrun] at hadmitted
    exact hadmitted
  have hcalm : State.calm p s (s.heardSince ({ s with tiles := s.marked which } : State).driveReact) :=
    ((State.calm_of_ports (t := { s with tiles := s.marked which }) rfl).trans (State.calm_driveReact p _)).trans
      (State.calm_heardSince p _ s)
  exact ⟨_, hexec, hcalm.answers hs.2 tag .fullRefresh .ok [],
    State.marksTiles_answered which (PortUnit.canTake_wait hs.2) tag .fullRefresh .ok []⟩

/-- Settles O33: each of the events marks by a table (`State.markTiles_eq`), and the drive answers the marks. -/
theorem fullRefreshMarks : Obligations.FullRefreshMarks := by
  unfold Obligations.FullRefreshMarks
  intro s
  refine ⟨fun p tag hs hsup => ⟨fun window hw => ?_, fun window w hw hwin => ?_⟩, fun hperiod hcount => ?_,
    fun hnot => ?_⟩
  · refine fullRefresh_marks hs hsup tag ?_ (which := fun _ => true) ?_
    · rw [fullRefreshOk, hw]
      rfl
    · unfold runFullRefresh
      rw [if_neg (by decide), State.markTiles_eq allTiles_nodup (which := fun _ => true) fun n => by
        simp [mem_allTiles]]
  · refine fullRefresh_marks hs hsup tag ?_ (which := w.rect.touches) ?_
    · rw [fullRefreshOk, hw]
      rfl
    · unfold runFullRefresh
      rw [if_pos (by decide), hwin]
      exact congrArg (·, some (Status.ok, []))
        (State.markTiles_eq w.rect.tiles_nodup fun n => by simp [Rect.mem_tiles])
  · have hdue : s.refreshDue = true := decide_eq_true ⟨hperiod, hcount⟩
    have hexpire : s.expireRefresh = ({ s with
        refreshCount := 0
        tiles := ({ s with refreshCount := 0 } : State).marked fun n => decide (1 ≤ s.tiles[n].partialCount) } :
        State).driveReact := by
      unfold State.expireRefresh
      rw [if_pos hdue]
      refine State.markTiles_eq (s := { s with refreshCount := 0 }) allTiles_nodup fun n => ?_
      rw [decide_eq_true_iff, decide_eq_true_iff, Nat.succ_le_iff]
      exact ⟨fun h => ⟨mem_allTiles n, h⟩, And.right⟩
    refine ⟨s.whole State.expireRefresh, rfl, ?_⟩
    rw [State.whole, hexpire]
    exact State.marksTiles_whole (s := { s with refreshCount := 0 }) (b := s)
      (fun n => decide (1 ≤ s.tiles[n].partialCount)) rfl
  · have hdue : s.refreshDue = false := by
      refine decide_eq_false fun h => ?_
      rcases hnot with h0 | hlt
      · exact h.1 h0
      · exact absurd h.2 (not_le.mpr hlt)
    have hsame : s.expireRefresh = s := by
      unfold State.expireRefresh
      rw [hdue]
      rfl
    show Host.Outcome.next (s.whole State.expireRefresh) = _
    rw [State.whole, hsame, State.heardSince_self]

end Sys2Proof.Machine
end

section
/-!
PROOF. JOB_COMPLETION (O32): the state a completed job leaves before the drive answers, the waits its report ends, and
the handings and the hold after it.
-/

namespace Sys2Proof.Machine

/-! ### What a completed job leaves (R56, R57) -/

/-- The tile's record after its job: the counts, and SETTLED or PENDING by the new panel values. -/
def State.recordAfter (s : State) (j : Job) : TileRec :=
  (s.tiles[j.tile].counted j.waveform).completed s.now
    (tileStale s.view (s.panel.set j.tile (known j.snapshot)) j.tile)

/-- The state a completed job leaves before the waits are judged and the drive answers. -/
def State.jobLeft (s : State) (e : EngineId) (j : Job) : State :=
  { s with
    engines := s.engines.set e none
    panel := s.panel.set j.tile (known j.snapshot)
    tiles := s.tiles.set j.tile (s.recordAfter j) }

/-- So, with the waits ended that the tile's report settles (R72). -/
def State.jobReported (s : State) (e : EngineId) (j : Job) : State :=
  if (s.recordAfter j).isSettled then (s.jobLeft e j).settledReport [j.tile] else s.jobLeft e j

theorem State.finishJob_eq (s : State) (e : EngineId) (j : Job) :
    s.finishJob e j = (s.jobReported e j).driveReact := rfl

theorem State.jobReported_frame (s : State) (e : EngineId) (j : Job) :
    s.jobReported e j = { s.jobLeft e j with ports := (s.jobReported e j).ports } := by
  unfold State.jobReported
  split_ifs <;> rfl

/-- The record in the terms of R57: PARTIAL counts one more, FULL clears the count and full due, and the tile waits
where it is stale or full due. -/
theorem State.recordAfter_eq (s : State) (j : Job) : s.recordAfter j =
    ⟨if decide ((s.panel.set j.tile (known j.snapshot))[j.tile] ≠ known (s.view.tile j.tile)) ||
          (if j.waveform = .fullDrive then false else s.tiles[j.tile].fullDue) then .pending s.now else .settled,
      if j.waveform = .fullDrive then 0 else s.tiles[j.tile].partialCount + 1,
      if j.waveform = .fullDrive then false else s.tiles[j.tile].fullDue⟩ := by
  unfold State.recordAfter
  cases j.waveform <;> rfl

/-- The tile is SETTLED where it is neither stale nor full due. -/
theorem State.recordAfter_settled (s : State) (j : Job) : (s.recordAfter j).state = .settled ↔
    (decide ((s.panel.set j.tile (known j.snapshot))[j.tile] ≠ known (s.view.tile j.tile)) ||
      (if j.waveform = .fullDrive then false else s.tiles[j.tile].fullDue)) = false := by
  rw [State.recordAfter_eq]
  generalize (decide ((s.panel.set j.tile (known j.snapshot))[j.tile] ≠ known (s.view.tile j.tile)) || _) = waits
  cases waits <;> simp

theorem State.jobLeft_tile (s : State) (e : EngineId) (j : Job) (n : TileId) :
    (s.jobLeft e j).tiles[n] = if n = j.tile then s.recordAfter j else s.tiles[n] := vector_set_get _ _ _ _

/-! ### The waits (R71, R72, R190) -/

/-- The report of one SETTLED tile ends the waits on the settled windows that touch it. -/
theorem State.settledReport_ends (s : State) (w : Window) (m : TileId) :
    (w.rect.tiles.any ([m].contains ·) && s.windowSettled w) = true ↔
      w.rect.touches m = true ∧ ∀ n : TileId, w.rect.touches n = true → s.tiles[n].state = .settled := by
  simp only [State.windowSettled, TileRec.isSettled, Bool.and_eq_true, List.any_eq_true, List.all_eq_true,
    Rect.mem_tiles, List.contains_iff_mem, List.mem_singleton, exists_eq_right, decide_eq_true_eq]

theorem State.settledReport_port_of_settled {s : State} {q : PortId} {v : Wait} {w : Window}
    (hv : s.ports[q].wait = some v) (hw : s.windows[v.window] = some w) {m : TileId} (ht : w.rect.touches m = true)
    (hall : ∀ n : TileId, w.rect.touches n = true → s.tiles[n].state = .settled) :
    (s.settledReport [m]).ports[q] = s.ports[q].endWait .ok := by
  have hends := (s.settledReport_ends w m).mpr ⟨ht, hall⟩
  unfold State.settledReport
  rw [Fin.getElem_fin, State.endWaits_port]
  simp only [Fin.getElem_fin] at hv hw ⊢
  simp only [hv, hw, hends, if_true]

theorem State.settledReport_port_of_open {s : State} {q : PortId} {v : Wait} (hv : s.ports[q].wait = some v)
    {m : TileId} (hopen : ∀ w, s.windows[v.window] = some w → w.rect.touches m = true →
      ¬∀ n : TileId, w.rect.touches n = true → s.tiles[n].state = .settled) :
    (s.settledReport [m]).ports[q] = s.ports[q] := by
  unfold State.settledReport
  rw [Fin.getElem_fin, State.endWaits_port]
  cases hw : s.windows[v.window] with
  | none =>
    simp only [Fin.getElem_fin] at hv hw ⊢
    simp only [hv, hw, Bool.false_eq_true, if_false]
  | some w =>
    have hgoes : (w.rect.tiles.any ([m].contains ·) && s.windowSettled w) = false :=
      Bool.eq_false_iff.mpr fun hends =>
        hopen w hw ((s.settledReport_ends w m).mp hends).1 ((s.settledReport_ends w m).mp hends).2
    simp only [Fin.getElem_fin] at hv hw ⊢
    simp only [hv, hw, hgoes, Bool.false_eq_true, if_false]

/-- A wait ends at the completion where its window touches the tile and all its tiles are then SETTLED. -/
theorem State.jobReported_port_of_settled {s : State} {e : EngineId} {j : Job} {q : PortId} {v : Wait} {w : Window}
    (hv : s.ports[q].wait = some v) (hw : s.windows[v.window] = some w) (ht : w.rect.touches j.tile = true)
    (hall : ∀ n : TileId, w.rect.touches n = true → (s.jobLeft e j).tiles[n].state = .settled) :
    (s.jobReported e j).ports[q] = s.ports[q].endWait .ok := by
  have hsettled : (s.recordAfter j).isSettled = true := by
    have hjob := hall j.tile ht
    rw [State.jobLeft_tile, if_pos rfl] at hjob
    exact decide_eq_true hjob
  rw [State.jobReported, if_pos hsettled]
  exact State.settledReport_port_of_settled (s := s.jobLeft e j) hv hw ht hall

/-- Every other wait goes on. -/
theorem State.jobReported_port_of_open {s : State} {e : EngineId} {j : Job} {q : PortId} {v : Wait}
    (hv : s.ports[q].wait = some v) (hopen : ∀ w, s.windows[v.window] = some w → w.rect.touches j.tile = true →
      ¬∀ n : TileId, w.rect.touches n = true → (s.jobLeft e j).tiles[n].state = .settled) :
    (s.jobReported e j).ports[q] = s.ports[q] := by
  unfold State.jobReported
  split_ifs
  · exact State.settledReport_port_of_open (s := s.jobLeft e j) hv hopen
  · rfl

theorem State.handed_jobReported (s : State) (e : EngineId) (j : Job) : s.handed (s.jobReported e j) [] := by
  unfold State.jobReported
  split_ifs
  · exact State.handed_endWaits_ok (s.jobLeft e j) _
  · exact State.handed_of_ports rfl

/-! ### The completion as a whole -/

/-- The state a completed job leaves, while the rail is ON. -/
def State.jobCompleted (s : State) (e : EngineId) (j : Job) : State :=
  (s.jobReported e j).arbiter.checkHold.finish

theorem exec_jobCompletion {s : State} {e : EngineId} {j : Job} (hj : s.engines[e] = some j) (h0 : j.frames = 0)
    (hr : s.railOn = true) : exec (.jobCompletion e) s = .next (s.jobCompleted e j) := by
  have hon : (s.jobReported e j).railOn = true := by
    rw [s.jobReported_frame]
    exact hr
  have hreact : s.completeJob e = (s.jobReported e j).arbiter.checkHold := by
    unfold State.completeJob
    rw [hj]
    simp only
    rw [if_pos h0, State.finishJob_eq, State.driveReact_on hon]
  have hkept : (s.jobReported e j).alerts = s.alerts ∧ (s.jobReported e j).panelTest = s.panelTest ∧
      (s.jobReported e j).chimes = s.chimes := by
    rw [s.jobReported_frame]
    exact ⟨rfl, rfl, rfl⟩
  show Host.Outcome.next (s.whole (State.completeJob e)) = _
  rw [State.whole_of_same, hreact]
  · rfl
  · rw [hreact, State.checkHold_alerts, State.arbiter_alerts, hkept.1]
  · rw [hreact, ← hkept.2.1]
    simp [State.panelTest]
  · rw [hreact, State.checkHold_chimes, State.arbiter_chimes, hkept.2.2]

/-- A job that has frames left does not complete (log 3). -/
theorem exec_jobCompletion_of_frames {s : State} {e : EngineId} {j : Job} (hj : s.engines[e] = some j)
    (h0 : 0 < j.frames) : exec (.jobCompletion e) s = .next s.finish := by
  have hsame : s.completeJob e = s := by
    unfold State.completeJob
    rw [hj]
    exact if_neg h0.ne'
  show Host.Outcome.next (s.whole (State.completeJob e)) = _
  rw [State.whole, hsame, State.heardSince_self]

section
variable (s : State) (e : EngineId) (j : Job)

theorem State.jobCompleted_panel : (s.jobCompleted e j).panel = s.panel.set j.tile (known j.snapshot) := by
  rw [State.jobCompleted, State.finish_panel, State.checkHold_panel, State.arbiter_panel, s.jobReported_frame]
  rfl

theorem State.jobCompleted_tiles : (s.jobCompleted e j).tiles = (s.jobReported e j).arbiter.tiles := by
  rw [State.jobCompleted, State.finish_tiles, State.checkHold_tiles]

theorem State.jobCompleted_engines : (s.jobCompleted e j).engines = (s.jobReported e j).arbiter.engines := by
  rw [State.jobCompleted, State.finish_engines, State.checkHold_engines]

theorem State.jobReported_tiles : (s.jobReported e j).tiles = (s.jobLeft e j).tiles := by
  rw [s.jobReported_frame]

theorem State.jobReported_engines : (s.jobReported e j).engines = s.engines.set e none := by
  rw [s.jobReported_frame]
  rfl

theorem State.jobReported_rail : (s.jobReported e j).rail = s.rail := by
  rw [s.jobReported_frame]
  rfl

theorem State.jobReported_railOn : (s.jobReported e j).railOn = s.railOn :=
  State.railOn_of_rail (congrArg Rail.state (s.jobReported_rail e j))

/-- The completion changes the panel, the tiles, the engines, the rail and the Port Units alone. -/
theorem State.jobCompleted_frame : s.jobCompleted e j = { s with
    panel := (s.jobCompleted e j).panel, tiles := (s.jobCompleted e j).tiles, engines := (s.jobCompleted e j).engines
    rail := (s.jobCompleted e j).rail, ports := (s.jobCompleted e j).ports } := by
  have hleft : s.jobReported e j = { s with
      panel := (s.jobReported e j).panel, tiles := (s.jobReported e j).tiles, engines := (s.jobReported e j).engines
      ports := (s.jobReported e j).ports } := by
    rw [s.jobReported_frame]
    rfl
  unfold State.jobCompleted
  apply State.ext_fields <;> simp <;> rw [hleft]

/-- A tile stands as the completion left it, or an engine takes it. -/
theorem State.tileKept_jobCompleted (n : TileId) : (s.jobLeft e j).tileKept (s.jobCompleted e j) n := by
  have hkept := (s.jobReported e j).tileKept_arbiter n
  unfold State.tileKept at hkept ⊢
  rwa [State.jobCompleted_tiles, ← State.jobReported_tiles]

/-- The tile of the job. -/
theorem State.jobCompleted_tile : (s.jobCompleted e j).tiles[j.tile] = s.recordAfter j ∨
    (s.jobCompleted e j).tiles[j.tile] = { s.recordAfter j with state := .driving } := by
  have hkept := s.tileKept_jobCompleted e j j.tile
  rwa [State.tileKept, State.jobLeft_tile, if_pos rfl] at hkept

theorem State.tileKept_jobCompleted_other {n : TileId} (hn : n ≠ j.tile) : s.tileKept (s.jobCompleted e j) n := by
  have hkept := s.tileKept_jobCompleted e j n
  rwa [State.tileKept, State.jobLeft_tile, if_neg hn] at hkept

/-- The jobs of the other engines go on (R58). -/
theorem State.jobCompleted_job {d : EngineId} (hd : d ≠ e) {i : Job} (hi : s.engines[d] = some i) :
    (s.jobCompleted e j).engines[d] = some i := by
  rw [State.jobCompleted_engines]
  refine (s.jobReported e j).jobsStand_arbiter d i ?_
  rw [State.jobReported_engines, vector_set_get, if_neg hd, hi]

theorem State.engineTaken_jobCompleted (hr : s.railOn = true) : (s.jobCompleted e j).engineTaken :=
  State.engineTaken_checkHold (State.arbiter_engineTaken ((s.jobReported_railOn e j).trans hr))

theorem State.arbitered_jobCompleted (hr : s.railOn = true) : (s.jobLeft e j).arbitered (s.jobCompleted e j) := by
  refine (State.arbitered_arbiter ((s.jobReported_railOn e j).trans hr)).congr ?_ ?_ ?_ (s.jobCompleted_engines e j)
    (s.jobCompleted_tiles e j)
  · rw [s.jobReported_frame]
    exact ⟨rfl, rfl, rfl⟩
  · rw [State.jobReported_engines]
    rfl
  · rw [State.jobReported_tiles]

theorem State.jobCompleted_rail {h : Option Nat} (hr : s.rail.state = .on h) :
    (s.jobCompleted e j).rail = { s.rail with state := .on ((s.jobCompleted e j).holdAfter h) } := by
  have hon : (s.jobReported e j).arbiter.rail.state = .on h := by rw [State.arbiter_rail, State.jobReported_rail, hr]
  have hrail := State.checkHold_rail hon
  rwa [State.arbiter_rail, State.jobReported_rail] at hrail

/-- The frames that begin after the completion leave its ports' waits and responses. -/
theorem State.jobCompleted_port (q : PortId) :
    (s.jobCompleted e j).ports[q] = (s.jobReported e j).ports[q].startTx := by
  rw [State.jobCompleted, Fin.getElem_fin, State.finish_port, State.checkHold_ports, State.arbiter_ports]
  rfl

/-- A wait that the completion ends is answered OK (R190). -/
theorem State.jobCompleted_wait_of_settled {q : PortId} {v : Wait} {w : Window} (hv : s.ports[q].wait = some v)
    (hw : s.windows[v.window] = some w) (ht : w.rect.touches j.tile = true)
    (hall : ∀ n : TileId, w.rect.touches n = true → (s.jobLeft e j).tiles[n].state = .settled) :
    (s.jobCompleted e j).ports[q].wait = none ∧
      (s.jobCompleted e j).ports[q].responses = s.ports[q].responses ++ [⟨true, v.tag, 7, .ok, []⟩] := by
  rw [State.jobCompleted_port, PortUnit.startTx_wait, PortUnit.startTx_responses,
    State.jobReported_port_of_settled hv hw ht hall, PortUnit.endWait, hv]
  exact ⟨rfl, rfl⟩

theorem State.jobCompleted_wait_of_open {q : PortId} {v : Wait} (hv : s.ports[q].wait = some v)
    (hopen : ∀ w, s.windows[v.window] = some w → w.rect.touches j.tile = true →
      ¬∀ n : TileId, w.rect.touches n = true → (s.jobLeft e j).tiles[n].state = .settled) :
    (s.jobCompleted e j).ports[q].wait = some v ∧ (s.jobCompleted e j).ports[q].responses = s.ports[q].responses := by
  rw [State.jobCompleted_port, PortUnit.startTx_wait, PortUnit.startTx_responses,
    State.jobReported_port_of_open hv hopen]
  exact ⟨hv, rfl⟩

/-- No notice is handed at the completion. -/
theorem State.told_jobCompleted : s.told { s with ports := (s.jobCompleted e j).ports } [] := by
  refine ⟨{ s with ports := (s.jobReported e j).ports }, fun q => ?_, ?_⟩
  · have hhanded := s.handed_jobReported e j q
    rwa [s.jobReported_frame] at hhanded
  · have hports : (s.jobCompleted e j).ports =
        ({ s with ports := (s.jobReported e j).ports } : State).finish.ports := by
      refine Vector.ext fun i hi => ?_
      have hport := s.jobCompleted_port e j ⟨i, hi⟩
      exact hport.trans (State.finish_port { s with ports := (s.jobReported e j).ports } ⟨i, hi⟩).symm
    rw [hports]
    rfl

/-- The window's tiles are all SETTLED after the completion, by what the statement says of the job's tile and of
the others. -/
theorem State.jobLeft_settled_iff {w : Window} (ht : w.rect.touches j.tile = true) :
    (∀ n : TileId, w.rect.touches n = true → (s.jobLeft e j).tiles[n].state = .settled) ↔
      (s.recordAfter j).state = .settled ∧
        ∀ n : TileId, n ≠ j.tile → w.rect.touches n = true → s.tiles[n].state = .settled := by
  simp only [State.jobLeft_tile]
  constructor
  · intro hall
    refine ⟨?_, fun n hn htn => ?_⟩
    · simpa using hall j.tile ht
    · simpa [hn] using hall n htn
  · rintro ⟨hjob, hothers⟩ n htn
    split_ifs with hn
    · exact hjob
    · exact hothers n hn htn

end

/-- Settles O32: what a job that has frames left does (log 3), and what `State.jobCompleted` makes of panel, tiles,
engines, waits, rail and notices. -/
theorem jobCompletionEffects : Obligations.JobCompletionEffects := by
  unfold Obligations.JobCompletionEffects
  intro s e j hj
  refine ⟨fun h0 => exec_jobCompletion_of_frames hj h0, fun h0 hr => ?_⟩
  have hpanel := s.jobCompleted_panel e j
  refine ⟨s.jobCompleted e j, exec_jobCompletion hj h0 hr, hpanel, ?_, fun q v hv hout => ?_,
    fun n hn => s.tileKept_jobCompleted_other e j hn, s.engineTaken_jobCompleted e j hr, fun d hd hbusy => ?_,
    fun h hon => s.jobCompleted_rail e j hon, s.told_jobCompleted e j, s.jobCompleted_frame e j⟩
  · intro stale count due r
    have hrecord : r = s.recordAfter j := by
      rw [State.recordAfter_eq, ← hpanel]
    have hsettled : (s.recordAfter j).state = .settled ↔ (stale || due) = false := by
      rw [State.recordAfter_settled, ← hpanel]
    rw [hrecord]
    refine ⟨s.jobCompleted_tile e j, ?_, fun q v w hv hw ht => ?_⟩
    · rw [hpanel]
      exact s.arbitered_jobCompleted e j hr
    · have hall := s.jobLeft_settled_iff e j ht
      rw [hsettled] at hall
      split_ifs with hends
      · exact s.jobCompleted_wait_of_settled e j hv hw ht (hall.mpr hends)
      · refine (s.jobCompleted_wait_of_open e j hv fun x hx _ hx' => hends ?_).1
        obtain rfl : w = x := Option.some.inj (hw.symm.trans hx)
        exact hall.mp hx'
  · exact s.jobCompleted_wait_of_open e j hv fun w hw ht => absurd ht (by rw [hout w hw]; decide)
  · obtain ⟨i, hi⟩ := Option.ne_none_iff_exists'.mp hbusy
    rw [hi, s.jobCompleted_job e j hd hi]

end Sys2Proof.Machine
end

section
/-!
PROOF. How the rail leaves its states (O36): a rise as an event taken whole and as a request's work, and the timers and
CLEAR_DRIVE_FAULT by the state they find.
-/

namespace Sys2Proof.Machine

/-! ### A rise as an event (R77, R78) -/

/-- A rise with the sounder's choice after it: `b` is the state the event found, `s` that state with the event's own
changes to the rail and its input. -/
theorem State.heard_enterRising {s b : State} (hb : s = { b with rail := s.rail, powerGood := s.powerGood }) :
    s.risenTo (b.heardSince s.enterRising) ∧ (s.soundOk = true → s.hears (b.heardSince s.enterRising)) := by
  have hsame : b.alerts = s.alerts ∧ b.panelTest = s.panelTest ∧ b.chimes = s.chimes ∧ b.soundOk = s.soundOk ∧
      b.pattern = s.pattern := by
    rw [hb]
    exact ⟨rfl, rfl, rfl, rfl, rfl⟩
  obtain ⟨halerts, htest, hchimes, hsound, hpattern⟩ := hsame
  exact ⟨s.risenTo_enterRising.heard halerts htest hchimes, fun hs =>
    State.hears_heardSince (hsound.trans hs) hpattern (by simp) (by simp) (by simp [State.panelTest]) (by simp)⟩

/-- A rise as an event taken whole. -/
theorem State.risen_enterRising {s b : State} (hb : s = { b with rail := s.rail, powerGood := s.powerGood }) :
    s.risen (b.heardSince s.enterRising).finish :=
  ⟨_, (State.heard_enterRising hb).1, (State.heard_enterRising hb).2, rfl⟩

/-- A rise, and a request's response beside it. -/
theorem State.risenTo.answered {s t : State} (h : s.risenTo t) {p : PortId} (hp : s.ports[p].wait = none)
    (tag : Byte) (rc : RequestCode) (st : Status) (r : List Byte) :
    (s.answered p tag rc st r).risenTo (t.reply p tag rc (some (st, r))) := by
  unfold State.risenTo at h ⊢
  change if s.powerGood = true then _ else _
  split_ifs at h ⊢
  · obtain ⟨hrail, hjobs, hfault, hrecords, hhanded, harbitered, hwaits, hsounder, hframe⟩ := h
    refine ⟨hrail, hjobs, hfault, hrecords, hhanded.answered hp tag rc st r,
      harbitered.congr ⟨rfl, rfl, rfl⟩ rfl rfl rfl rfl, ?_, hsounder, ?_⟩
    · exact hwaits.congr (State.modifyPort_wait fun _ => rfl) (State.modifyPort_wait fun _ => rfl) rfl
        fun _ _ => Iff.rfl
    · rw [hframe]
      rfl
  · rw [h]
    rfl

/-- A rise as a request's work, with its response. -/
theorem State.risen_enterRising_answered {s b : State} (hb : s = { b with rail := s.rail, powerGood := s.powerGood })
    {p : PortId} (hp : s.ports[p].wait = none) (tag : Byte) (rc : RequestCode) (st : Status) (r : List Byte) :
    (s.answered p tag rc st r).risen ((b.heardSince s.enterRising).reply p tag rc (some (st, r))).finish := by
  obtain ⟨hrisen, hhears⟩ := State.heard_enterRising hb
  exact ⟨_, hrisen.answered hp tag rc st r, fun hs => (hhears hs).answered p tag rc st r, rfl⟩

/-- The choice reads nothing of the rail. -/
theorem State.hears.of_setRail {s t : State} {r : RailState} (h : (s.setRail r).hears t) : s.hears t := by
  obtain ⟨hchimes, hpattern⟩ := State.chooseSource_congr (s := { s.setRail r with alerts := t.alerts })
    (u := { s with alerts := t.alerts }) rfl rfl rfl rfl rfl
  exact ⟨h.1.trans hchimes.symm, h.2.trans hpattern.symm⟩

/-- A rise reads nothing of the state that the rail rises from. -/
theorem State.risen.of_setRail {s t : State} {r : RailState} (h : (s.setRail r).risen t) : s.risen t := by
  obtain ⟨u, hrisen, hhears, hfinish⟩ := h
  exact ⟨u, hrisen, fun hs => (hhears hs).of_setRail, hfinish⟩

/-! ### The timers (R80, R82) -/

theorem State.enable_iff (s : State) : s.enable = true ↔
    (∃ n, s.rail.state = .rising n) ∨ ∃ h, s.rail.state = .on h := by
  unfold State.enable
  cases s.rail.state <;> simp

/-- An event that changes the rail and the level of power-good alone, taken whole. -/
theorem State.whole_of_rail {f : State → State} {s : State} {r : Rail} {b : Bool}
    (h : f s = { s with rail := r, powerGood := b }) :
    s.whole f = ({ s with rail := r, powerGood := b } : State).finish := by
  rw [State.whole, h]
  exact congrArg State.finish (State.heardSince_of_same rfl rfl rfl)

/-- An event that does not occur (log 3). -/
theorem State.whole_of_unchanged {f : State → State} {s : State} (h : f s = s) : s.whole f = s.finish :=
  State.whole_of_rail h

theorem State.expireHold_of_ne {s : State} (h : s.rail.state ≠ .on (some 0)) : s.expireHold = s := by
  unfold State.expireHold
  split
  · next hs => exact absurd hs h
  · rfl

theorem State.expireHold_of_over {s : State} (h : s.rail.state = .on (some 0)) :
    s.expireHold = s.setRail (.falling 2) := by
  unfold State.expireHold
  rw [h]
  rfl

theorem State.expireFall_of_ne {s : State} (h : s.rail.state ≠ .falling 0) : s.expireFall = s := by
  unfold State.expireFall
  split
  · next hs => exact absurd hs h
  · rfl

/-- At the end of a fall the rail is OFF, and rises at once where a tile waits (R82). -/
theorem State.expireFall_of_over {s : State} (h : s.rail.state = .falling 0) :
    s.expireFall = if s.anyWaiting then (s.setRail .off).enterRising else s.setRail .off := by
  unfold State.expireFall
  rw [h]
  exact State.driveReact_off rfl

theorem State.expireRetry_of_ne {s : State} (h : s.rail.state ≠ .fault (some 0)) : s.expireRetry = s := by
  unfold State.expireRetry
  split
  · next hs => exact absurd hs h
  · rfl

theorem State.expireRetry_of_over {s : State} (h : s.rail.state = .fault (some 0)) :
    s.expireRetry = s.enterRising := by
  unfold State.expireRetry
  rw [h]
  rfl

/-! ### CLEAR_DRIVE_FAULT (R85) -/

/-- The rail that a cleared lock leaves: OFF, with the attempt count 0. -/
def State.unlocked (s : State) : State := { s with rail := ⟨.off, 0, s.rail.holdSetting⟩ }

theorem Rail.locked_iff (r : Rail) : r.locked = true ↔ (∃ x, r.state = .fault x) ∧ r.attempts = 3 := by
  unfold Rail.locked
  cases r.state <;> simp

theorem State.unlocked_driveReact (s : State) : s.unlocked.driveReact =
    if s.anyWaiting then s.unlocked.enterRising else s.unlocked := State.driveReact_off rfl

theorem runClearDriveFault_of_locked {s : State} (h : s.rail.locked = true) :
    runClearDriveFault s = (s.unlocked.driveReact, some (.ok, [])) := by
  rw [runClearDriveFault, if_pos h]
  rfl

theorem runClearDriveFault_of_unlocked {s : State} (h : ¬s.rail.locked = true) :
    runClearDriveFault s = (s, some (.ok, [])) := by
  rw [runClearDriveFault, if_neg h]

/-- CLEAR_DRIVE_FAULT as its port's request: `t` is what its work leaves. -/
theorem exec_clearDriveFault {s t : State} {p : PortId} (hs : s.serves p) (hsup : s.supervisor = some p) (tag : Byte)
    (hrun : runClearDriveFault s = (t, some (.ok, []))) : exec (.clearDriveFault p tag) s =
      .next ((s.heardSince t).reply p tag .clearDriveFault (some (.ok, []))).finish := by
  have hadmitted := takeDirect_admitted hs tag .clearDriveFault true true true runClearDriveFault rfl rfl
    fun _ => hsup
  rw [hrun] at hadmitted
  exact hadmitted

/-- Settles O36: each timer by whether it is at its end, and CLEAR_DRIVE_FAULT by whether the rail is locked and a tile
waits; every rise is `State.heard_enterRising`. -/
theorem railLeavesItsStates : Obligations.RailLeavesItsStates := by
  unfold Obligations.RailLeavesItsStates
  intro s
  refine ⟨s.enable_iff, fun h => ?_, fun h => ?_, fun h => ?_, fun h hw => ?_, fun h hw => ?_, fun h => ?_, fun h => ?_,
    fun p tag hs hsup => ?_⟩
  · exact congrArg Host.Outcome.next (State.whole_of_unchanged (State.expireHold_of_ne h))
  · exact congrArg Host.Outcome.next (State.whole_of_rail (State.expireHold_of_over h))
  · exact congrArg Host.Outcome.next (State.whole_of_unchanged (State.expireFall_of_ne h))
  · have hoff : s.expireFall = s.setRail .off := by rw [State.expireFall_of_over h, hw]; rfl
    exact congrArg Host.Outcome.next (State.whole_of_rail hoff)
  · refine ⟨s.whole State.expireFall, rfl, ?_⟩
    rw [State.whole, State.expireFall_of_over h, if_pos hw]
    exact (State.risen_enterRising (s := s.setRail .off) (b := s) rfl).of_setRail
  · exact congrArg Host.Outcome.next (State.whole_of_unchanged (State.expireRetry_of_ne h))
  · refine ⟨s.whole State.expireRetry, rfl, ?_⟩
    rw [State.whole, State.expireRetry_of_over h]
    exact State.risen_enterRising rfl
  · intro locked ok
    have hlocked : s.rail.locked = true ↔ locked := s.rail.locked_iff
    refine ⟨fun hl => ?_, fun hl hw => ?_, fun hl hw => ?_⟩
    · rw [exec_clearDriveFault hs hsup tag (runClearDriveFault_of_unlocked (mt hlocked.mp hl)), State.heardSince_self]
      rfl
    · rw [exec_clearDriveFault hs hsup tag (runClearDriveFault_of_locked (hlocked.mpr hl)), State.unlocked_driveReact,
        hw]
      exact congrArg (fun u => Host.Outcome.next (ok u).finish) (State.heardSince_of_same (s := s.unlocked) rfl rfl rfl)
    · have hcalm : State.calm p s (s.heardSince s.unlocked.driveReact) :=
        ((State.calm_of_ports (t := s.unlocked) rfl).trans (State.calm_driveReact p _)).trans
          (State.calm_heardSince p _ s)
      refine ⟨_, exec_clearDriveFault hs hsup tag (runClearDriveFault_of_locked (hlocked.mpr hl)),
        hcalm.answers hs.2 tag .clearDriveFault .ok [], ?_⟩
      rw [State.unlocked_driveReact, if_pos hw]
      exact State.risen_enterRising_answered (s := s.unlocked) rfl (PortUnit.canTake_wait hs.2) tag .clearDriveFault
        .ok []

end Sys2Proof.Machine
end

section
/-!
PROOF. The failures of the rail and its reaching ON (O34, O35): a list event while the rail is in FAULT, the first
failure of a series with DRIVE_FAULT's raise, and the jobs that a loss of power-good abandons.
-/

namespace Sys2Proof.Machine

/-! ### A list event while the rail is in FAULT -/

theorem State.not_risesAtOnce_of_fault {s : State} {r : Option Nat} (hr : s.rail.state = .fault r) :
    ¬s.risesAtOnce := fun h => by
  rw [State.risesAtOnce, hr] at h
  exact RailState.noConfusion h.1

/-- In FAULT the drive has nothing to answer: engines and rail stand, the tiles are as the event's reports leave
them, and these alone end waits. -/
theorem State.drives.of_fault {s t : State} {al : List Alert} {ts : Vector TileRec 40} (h : s.drives t al ts)
    {r : Option Nat} (hr : s.rail.state = .fault r) :
    t.engines = s.engines ∧ t.tiles = ts ∧ t.rail = s.rail ∧ s.waitsFollow t fun _ w => w.settles s.tiles ts := by
  obtain ⟨hdrive, hwaits⟩ := h
  unfold State.driveFollows at hdrive
  have hr' : (s.undriven t al ts).rail.state = .fault r := hr
  rw [hr'] at hdrive
  obtain ⟨hengines, htiles, hrail⟩ := hdrive
  refine ⟨hengines, htiles, hrail, hwaits.congr (fun _ => rfl) (fun _ => rfl) rfl fun _ w => ?_⟩
  exact ⟨Or.inl, fun h => h.resolve_right fun hrises => State.not_risesAtOnce_of_fault hr hrises.1.1⟩

/-- A report that leaves every tile record ends no wait. -/
theorem Window.not_settles_self (w : Window) (tiles : Vector TileRec 40) : ¬w.settles tiles tiles :=
  fun h => h.1.elim fun _ hn => hn.2.1 hn.2.2

/-- In FAULT a list event reports the banner's tiles and ends the waits that this settles; engines and rail stand. -/
theorem State.listEvent_fault {f : State → State} (hf : ListOnly f) {s : State} (hq : s.quiet (f s)) {r : Option Nat}
    (hr : s.rail.state = .fault r) :
    (s.listEvent f).engines = s.engines ∧ (s.listEvent f).rail = s.rail ∧
      (s.listEvent f).tiles = s.reportedTiles (s.listEvent f) bandRows ∧
      s.waitsFollow (s.listEvent f) fun _ w => w.settles s.tiles (s.listEvent f).tiles := by
  obtain ⟨l, hl, h⟩ := State.relisted_listEvent hf hq
  have hstays : ¬s.risesTo (s.listEvent f) := fun h => State.not_risesAtOnce_of_fault hr h.1
  rw [if_neg hstays] at hl
  subst hl
  split_ifs at h with hsame
  · obtain ⟨⟨hengines, htiles, hrail⟩, hwaits⟩ := h
    have hview : (s.listEvent f).view = s.view :=
      State.view_of_eq (by simp [State.panelTest, hf]) (by simp [hf]) hsame (by simp [hf]) (by simp [hf]) (by simp [hf])
    refine ⟨hengines, hrail, htiles.trans (State.reportedTiles_same hview _).symm, ?_⟩
    rw [htiles]
    exact hwaits.congr (fun _ => rfl) (fun _ => rfl) rfl fun _ w => ⟨w.not_settles_self _, False.elim⟩
  · obtain ⟨hengines, htiles, hrail, hwaits⟩ := h.of_fault hr
    rw [← htiles] at hwaits
    exact ⟨hengines, hrail, htiles, hwaits⟩

/-- In FAULT a list event hands the notices of its change and no other. -/
theorem State.handed_listEvent_fault {f : State → State} (hf : ListOnly f) {s : State} {ns : List Notice}
    (hn : s.handed (f s) ns) {r : Option Nat} (hr : s.rail.state = .fault r) : s.handed (s.listEvent f) ns := by
  obtain ⟨_, _, _, _, ms, hms, _, hnone⟩ := State.listedTo_listEvent hf hn
  rw [hnone fun h => State.not_risesAtOnce_of_fault hr h.1] at hms
  simpa using hms

/-! ### The first failure of a series (R79, R83, R86) -/

/-- The rail in FAULT with the first attempt of a series counted and its retry timer started. -/
def State.failed (s : State) : State := { s with rail := ⟨.fault (some 320), 1, s.rail.holdSetting⟩ }

/-- The notice of DRIVE_FAULT's raise. -/
def State.faultNotice (s : State) : Notice := raiseNotice s.now .system driveFaultCode
  ⟨255, 255, .warning, some 15, none, driveFaultMessage⟩ (s.record .system driveFaultCode)

/-- DRIVE_FAULT's record after its raise. -/
def State.faultRaised (s : State) : Alert := afterRaise s.now .system driveFaultCode
  ⟨255, 255, .warning, some 15, none, driveFaultMessage⟩ (s.record .system driveFaultCode)

/-- The first failure of a series: the rail in FAULT, and DRIVE_FAULT raised. -/
def State.failFirst (s : State) : State := s.failed.listEvent State.raiseDriveFault

theorem State.quiet_raiseDriveFault (s : State) : s.quiet s.raiseDriveFault := s.quiet_raise _ _ _

theorem State.handed_raiseDriveFault (s : State) : s.handed s.raiseDriveFault [s.faultNotice] := s.handed_raise _ _ _

theorem State.raiseDriveFault_record (s : State) (src : Source) (code : Byte) :
    s.raiseDriveFault.record src code =
      if (src, code) = (.system, driveFaultCode) then some s.faultRaised else s.record src code :=
  s.raise_record _ _ _ _ _

theorem State.failFirst_drive (s : State) : s.failFirst.engines = s.engines ∧
    s.failFirst.rail = ⟨.fault (some 320), 1, s.rail.holdSetting⟩ ∧
    s.failFirst.tiles = s.reportedTiles s.failFirst bandRows ∧
    s.waitsFollow s.failFirst fun _ w => w.settles s.tiles s.failFirst.tiles :=
  State.listEvent_fault (s := s.failed) listOnly_raiseDriveFault (State.quiet_raiseDriveFault _) rfl

theorem State.failFirst_engines (s : State) : s.failFirst.engines = s.engines := s.failFirst_drive.1

theorem State.failFirst_rail (s : State) : s.failFirst.rail = ⟨.fault (some 320), 1, s.rail.holdSetting⟩ :=
  s.failFirst_drive.2.1

theorem State.failFirst_tiles (s : State) : s.failFirst.tiles = s.reportedTiles s.failFirst bandRows :=
  s.failFirst_drive.2.2.1

theorem State.waitsFollow_failFirst (s : State) :
    s.waitsFollow s.failFirst fun _ w => w.settles s.tiles s.failFirst.tiles := s.failFirst_drive.2.2.2

theorem State.failFirst_record (s : State) (src : Source) (code : Byte) :
    s.failFirst.record src code = s.raiseDriveFault.record src code := by
  rw [State.failFirst, State.listEvent_record listOnly_raiseDriveFault _ _ _
    (Or.inr (State.not_risesAtOnce_of_fault rfl)), State.raiseDriveFault_record, State.raiseDriveFault_record]
  rfl

theorem State.failFirst_fault (s : State) : s.failFirst.record .system driveFaultCode = some s.faultRaised := by
  rw [State.failFirst_record, State.raiseDriveFault_record, if_pos rfl]

theorem State.keepsRecords_failFirst (s : State) : s.keepsRecords s.failFirst := fun src code h => by
  rw [State.failFirst_record, State.raiseDriveFault_record, if_neg h]

theorem State.handed_failFirst (s : State) : s.handed s.failFirst [s.faultNotice] :=
  State.handed_listEvent_fault (s := s.failed) listOnly_raiseDriveFault (State.handed_raiseDriveFault _) rfl

/-- The failure changes the list, the Port Units, the tiles, the rail and the engines alone. -/
theorem State.failFirst_frame (s : State) : s.failFirst = { s with
    alerts := s.failFirst.alerts, ports := s.failFirst.ports, tiles := s.failFirst.tiles, rail := s.failFirst.rail
    engines := s.failFirst.engines } := State.listEvent_frame s.failed listOnly_raiseDriveFault

theorem State.relisted.heardSince {s t : State} (h : s.relisted t) (b : State) : s.relisted (b.heardSince t) :=
  h.of_eq (by simp) (by simp) (by simp) (by simp) (by simp) (by simp) (by simp) (by simp) (by simp) (by simp) (by simp)
    (by simp) fun _ => by simp

theorem State.relisted.finish {s t : State} (h : s.relisted t) : s.relisted t.finish :=
  h.of_eq rfl rfl rfl rfl rfl rfl rfl rfl rfl rfl rfl rfl fun q => (t.quiet_finish q).1

/-! ### The failed rise (R79) -/

theorem State.expireRise_of_ne {s : State} (h : s.rail.state ≠ .rising 0) : s.expireRise = s := by
  unfold State.expireRise
  split
  · next hs => exact absurd hs h
  · rfl

/-- A later failure of a series only counts. -/
theorem State.expireRise_of_later {s : State} (h : s.rail.state = .rising 0) (ha : 1 ≤ s.rail.attempts) :
    s.expireRise = { s with rail := { s.rail with
      state := .fault (if s.rail.attempts + 1 < 3 then some 320 else none)
      attempts := s.rail.attempts + 1 } } := by
  unfold State.expireRise
  rw [h]
  exact if_neg (Nat.one_le_iff_ne_zero.mp ha)

theorem State.expireRise_of_first {s : State} (h : s.rail.state = .rising 0) (ha : s.rail.attempts = 0) :
    s.expireRise = s.failFirst := by
  unfold State.expireRise
  rw [h, ha]
  rfl

/-- Settles O35: by whether the rise timer is over and, if so, whether the failure begins a series
(`State.failFirst`). -/
theorem riseTimerExpiryEffects : Obligations.RiseTimerExpiryEffects := by
  unfold Obligations.RiseTimerExpiryEffects
  intro s
  refine ⟨rfl, rfl, fun h => ?_, fun h ha => ?_, fun h ha => ?_⟩
  · exact congrArg Host.Outcome.next (State.whole_of_unchanged (State.expireRise_of_ne h))
  · exact congrArg Host.Outcome.next (State.whole_of_rail (State.expireRise_of_later h ha))
  · refine ⟨s.whole State.expireRise, rfl, ?_⟩
    rw [State.whole, State.expireRise_of_first h ha, State.finish_record, State.heardSince_record, State.finish_rail,
      State.heardSince_rail, State.failFirst_rail, State.finish_engines, State.heardSince_engines,
      State.failFirst_engines]
    refine ⟨rfl, s.failFirst_fault, s.keepsRecords_failFirst.trans (State.keepsRecords_of_alerts (by simp)), rfl,
      ?_, ?_⟩
    · exact ((State.relisted_listEvent (s := s.failed) listOnly_raiseDriveFault
        (State.quiet_raiseDriveFault _)).heardSince s).finish
    · exact State.listedFrom_whole (s := s.failed) listOnly_raiseDriveFault (State.handed_raiseDriveFault _) rfl

/-! ### The jobs that a loss abandons (R59) -/

/-- The tile is driven by one of these engines. -/
def State.drivenBy (s : State) (es : List EngineId) (n : TileId) : Prop :=
  ∃ e ∈ es, ∃ j : Job, s.engines[e] = some j ∧ j.tile = n

/-- The tile is UNKNOWN since now, with its panel values unknown. -/
def State.tileLost (s t : State) (n : TileId) : Prop :=
  t.panel[n] = unknownCells ∧ t.tiles[n] = { s.tiles[n] with state := .unknown s.now }

/-- The tile's record and panel values stand. -/
def State.tileStands (s t : State) (n : TileId) : Prop := t.panel[n] = s.panel[n] ∧ t.tiles[n] = s.tiles[n]

/-- Only panel, tiles and engines differ. -/
def State.sameButJobs (s t : State) : Prop :=
  t = { s with panel := t.panel, tiles := t.tiles, engines := t.engines }

theorem State.sameButJobs.trans {s t u : State} (h₁ : s.sameButJobs t) (h₂ : t.sameButJobs u) : s.sameButJobs u := by
  unfold State.sameButJobs at *
  rw [h₂, h₁]

theorem State.sameButJobs.now {s t : State} (h : s.sameButJobs t) : t.now = s.now := by
  rw [h]
  rfl

theorem State.sameButJobs_abandonJob (s : State) (e : EngineId) : s.sameButJobs (s.abandonJob e) := by
  unfold State.sameButJobs State.abandonJob
  split <;> rfl

/-- The tile is lost where `lost` holds, and stands elsewhere. -/
def State.tileLostIf (s t : State) (n : TileId) (lost : Prop) : Prop :=
  (lost → s.tileLost t n) ∧ (¬lost → s.tileStands t n)

/-- The end of one job: its tile is lost, and every other tile stands. -/
theorem State.abandonJob_tile (s : State) (e : EngineId) (n : TileId) :
    s.tileLostIf (s.abandonJob e) n (s.drivenBy [e] n) := by
  unfold State.abandonJob State.tileLostIf State.tileLost State.tileStands
  cases hj : s.engines[e] with
  | none => simp [State.drivenBy, hj, -Fin.getElem_fin]
  | some j =>
    have hdriven : s.drivenBy [e] n ↔ n = j.tile := by
      simp [State.drivenBy, hj, eq_comm, -Fin.getElem_fin]
    simp only [hdriven, vector_set_get]
    refine ⟨fun hn => ?_, fun hn => ?_⟩
    · rw [if_pos hn, if_pos hn, hn]
      exact ⟨rfl, rfl⟩
    · rw [if_neg hn, if_neg hn]
      exact ⟨rfl, rfl⟩

/-- A tile over two parts of a loss. -/
theorem State.tileLostIf.trans {s t u : State} {n : TileId} {a b : Prop} (h₁ : s.tileLostIf t n a)
    (h₂ : t.tileLostIf u n b) (hn : t.now = s.now) : s.tileLostIf u n (a ∨ b) := by
  have hstate : ({ t.tiles[n] with state := .unknown t.now } : TileRec) =
      { s.tiles[n] with state := .unknown s.now } := by
    by_cases ha : a
    · rw [(h₁.1 ha).2, hn]
    · rw [(h₁.2 ha).2, hn]
  by_cases hb : b
  · exact ⟨fun _ => ⟨(h₂.1 hb).1, (h₂.1 hb).2.trans hstate⟩, fun h => absurd (Or.inr hb) h⟩
  · obtain ⟨hpanel, htile⟩ := h₂.2 hb
    refine ⟨fun h => ?_, fun h => ?_⟩
    · obtain ⟨hpanel', htile'⟩ := h₁.1 (h.resolve_right hb)
      exact ⟨hpanel.trans hpanel', htile.trans htile'⟩
    · obtain ⟨hpanel', htile'⟩ := h₁.2 fun ha => h (Or.inl ha)
      exact ⟨hpanel.trans hpanel', htile.trans htile'⟩

/-- What the other engines drive once one job is abandoned. -/
theorem State.drivenBy_cons_iff (s : State) (e : EngineId) (es : List EngineId) (n : TileId) :
    s.drivenBy (e :: es) n ↔ s.drivenBy [e] n ∨ (s.abandonJob e).drivenBy es n := by
  simp only [State.drivenBy, State.abandonJob_engine, List.mem_cons, List.not_mem_nil, or_false, exists_eq_left]
  constructor
  · rintro ⟨d, rfl | hd, j, hj, hn⟩
    · exact Or.inl ⟨j, hj, hn⟩
    · by_cases hde : d = e
      · exact Or.inl ⟨j, hde ▸ hj, hn⟩
      · exact Or.inr ⟨d, hd, j, by rw [if_neg hde, hj], hn⟩
  · rintro (⟨j, hj, hn⟩ | ⟨d, hd, j, hj, hn⟩)
    · exact ⟨e, Or.inl rfl, j, hj, hn⟩
    · split_ifs at hj
      exact ⟨d, Or.inr hd, j, hj, hn⟩

/-- The jobs of these engines abandoned, one after the other. -/
theorem State.foldl_abandonJob (es : List EngineId) (s : State) :
    let t := es.foldl (fun u e => u.abandonJob e) s
    s.sameButJobs t ∧
      (∀ n : TileId, s.tileLostIf t n (s.drivenBy es n)) ∧
      ∀ d : EngineId, d ∈ es ∨ s.engines[d] = none → t.engines[d] = none := by
  induction es generalizing s with
  | nil =>
    refine ⟨rfl, fun n => ⟨fun h => ?_, fun _ => ⟨rfl, rfl⟩⟩, fun d hd => hd.resolve_left List.not_mem_nil⟩
    obtain ⟨_, hmem, _⟩ := h
    exact absurd hmem List.not_mem_nil
  | cons e es ih =>
    obtain ⟨hsame, htiles, hfree⟩ := ih (s.abandonJob e)
    have hfirst := s.sameButJobs_abandonJob e
    refine ⟨hfirst.trans hsame, fun n => ?_, fun d hd => hfree d ?_⟩
    · rw [State.drivenBy_cons_iff]
      exact (s.abandonJob_tile e n).trans (htiles n) hfirst.now
    · rw [State.abandonJob_engine]
      split_ifs with hde
      · exact Or.inr rfl
      · exact hd.imp_left fun hm => (List.mem_cons.mp hm).resolve_left hde

/-! ### The loss of power-good (R83) -/

/-- Power-good no longer asserted, and every job abandoned. -/
def State.jobsLost (s : State) : State := ({ s with powerGood := false } : State).abandonJobs

theorem State.losePowerGood_of_on {s : State} (h : s.railOn = true) : s.losePowerGood = s.jobsLost.failFirst := by
  unfold State.losePowerGood
  rw [if_pos h]
  rfl

theorem State.losePowerGood_of_off {s : State} (h : s.railOn = false) :
    s.losePowerGood = { s with powerGood := false } := by
  unfold State.losePowerGood
  rw [h]
  rfl

theorem State.jobsLost_frame (s : State) : s.jobsLost = { s with
    powerGood := false, panel := s.jobsLost.panel, tiles := s.jobsLost.tiles, engines := s.jobsLost.engines } :=
  (State.foldl_abandonJob engineIds { s with powerGood := false }).1

theorem State.jobsLost_engine (s : State) (e : EngineId) : s.jobsLost.engines[e] = none :=
  (State.foldl_abandonJob engineIds { s with powerGood := false }).2.2 e (Or.inl (List.mem_finRange e))

theorem State.jobsLost_tile (s : State) (n : TileId) : s.tileLostIf s.jobsLost n
    (∃ (e : EngineId) (j : Job), s.engines[e] = some j ∧ j.tile = n) := by
  have htile := (State.foldl_abandonJob engineIds { s with powerGood := false }).2.1 n
  have hdriven : ({ s with powerGood := false } : State).drivenBy engineIds n ↔
      ∃ (e : EngineId) (j : Job), s.engines[e] = some j ∧ j.tile = n :=
    ⟨fun ⟨e, _, h⟩ => ⟨e, h⟩, fun ⟨e, h⟩ => ⟨e, List.mem_finRange e, h⟩⟩
  exact ⟨fun h => htile.1 (hdriven.mpr h), fun h => htile.2 (mt hdriven.mp h)⟩

theorem State.jobsLost_kept (s : State) : s.jobsLost.alerts = s.alerts ∧ s.jobsLost.now = s.now ∧
    s.jobsLost.ports = s.ports ∧ s.jobsLost.view = s.view := by
  rw [s.jobsLost_frame]
  exact ⟨rfl, rfl, rfl, rfl⟩

theorem State.reportedTiles_tile (s t : State) (f : TileId → Bool) (n : TileId) : (s.reportedTiles t f)[n] =
    if f n = true ∧ s.view.tile n ≠ t.view.tile n then s.tiles[n].report s.now (tileStale t.view s.panel n)
    else s.tiles[n] := by
  unfold State.reportedTiles
  rw [Fin.getElem_fin, Vector.getElem_ofFn]

/-- No report acts on a tile whose job is abandoned; every other tile is reported as without the loss. -/
theorem State.jobsLost_reported (s t : State) (f : TileId → Bool) (n : TileId) :
    if ∃ (e : EngineId) (j : Job), s.engines[e] = some j ∧ j.tile = n
    then s.jobsLost.panel[n] = unknownCells ∧
      (s.jobsLost.reportedTiles t f)[n] = { s.tiles[n] with state := .unknown s.now }
    else s.jobsLost.panel[n] = s.panel[n] ∧ (s.jobsLost.reportedTiles t f)[n] = (s.reportedTiles t f)[n] := by
  obtain ⟨hlost, hstands⟩ := s.jobsLost_tile n
  obtain ⟨_, hnow, _, hview⟩ := s.jobsLost_kept
  rw [State.reportedTiles_tile, State.reportedTiles_tile, hview, hnow]
  split_ifs with hdriven hreported hreported
  · rw [(hlost hdriven).2]
    exact ⟨(hlost hdriven).1, TileRec.report_unknown rfl _ _⟩
  · exact hlost hdriven
  · obtain ⟨hpanel, htile⟩ := hstands hdriven
    rw [htile, tileStale, tileStale, hpanel]
    exact ⟨rfl, rfl⟩
  · exact hstands hdriven

/-- Tile records that differ on tiles which the reports leave unsettled have the same waits end. -/
theorem Window.settles_congr {w : Window} {before before' after : Vector TileRec 40}
    (h : ∀ n : TileId, after[n].state = .settled → before'[n] = before[n]) :
    w.settles before' after ↔ w.settles before after := by
  unfold Window.settles
  refine and_congr_left fun _ => exists_congr fun n => and_congr_right fun _ => and_congr_left fun ha => ?_
  rw [h n ha]

/-- A tile that the reports of a loss leave SETTLED is none whose job was abandoned. -/
theorem State.jobsLost_tile_of_settled {s t : State} {f : TileId → Bool} {n : TileId}
    (h : (s.jobsLost.reportedTiles t f)[n].state = .settled) : s.jobsLost.tiles[n] = s.tiles[n] := by
  have hreported := s.jobsLost_reported t f n
  split_ifs at hreported with hdriven
  · rw [hreported.2] at h
    exact TileState.noConfusion h
  · exact ((s.jobsLost_tile n).2 hdriven).2

/-- The frames begun after an event leave the sounder. -/
theorem State.hears.finish {s t : State} (h : s.hears t) : s.hears t.finish := h

/-- The state that a loss of power-good leaves, while the rail is ON. -/
def State.lossTaken (s : State) : State := (s.heardSince s.jobsLost.failFirst).finish

section
variable (s : State)

theorem State.failFirst_jobsLost_frame : s.jobsLost.failFirst = { s with
    powerGood := false, panel := s.jobsLost.panel, tiles := s.jobsLost.failFirst.tiles
    engines := s.jobsLost.failFirst.engines, rail := s.jobsLost.failFirst.rail
    alerts := s.jobsLost.failFirst.alerts, ports := s.jobsLost.failFirst.ports } := by
  conv_lhs => rw [State.failFirst_frame]
  rw [s.jobsLost_frame]

/-- The loss changes the level, the panel, the drive, the list, the sounder and the Port Units alone. -/
theorem State.lossTaken_frame : s.lossTaken = { s with
    powerGood := false, panel := s.lossTaken.panel, tiles := s.lossTaken.tiles, engines := s.lossTaken.engines
    rail := s.lossTaken.rail, alerts := s.lossTaken.alerts, chimes := s.lossTaken.chimes
    pattern := s.lossTaken.pattern, ports := s.lossTaken.ports } := by
  unfold State.lossTaken
  apply State.ext_fields <;> simp <;> rw [s.failFirst_jobsLost_frame]

theorem State.lossTaken_panel : s.lossTaken.panel = s.jobsLost.panel := by
  rw [State.lossTaken, State.finish_panel, State.heardSince_panel, s.failFirst_jobsLost_frame]

theorem State.lossTaken_engine (e : EngineId) : s.lossTaken.engines[e] = none := by
  rw [State.lossTaken, State.finish_engines, State.heardSince_engines, State.failFirst_engines]
  exact s.jobsLost_engine e

theorem State.lossTaken_rail : s.lossTaken.rail = ⟨.fault (some 320), 1, s.rail.holdSetting⟩ := by
  rw [State.lossTaken, State.finish_rail, State.heardSince_rail, State.failFirst_rail, s.jobsLost_frame]

theorem State.lossTaken_tiles : s.lossTaken.tiles = s.jobsLost.reportedTiles s.lossTaken bandRows := by
  have hview : s.lossTaken.view = s.jobsLost.failFirst.view :=
    State.view_of_eq (by simp [State.lossTaken, State.panelTest]) (by simp [State.lossTaken])
      (by simp [State.lossTaken]) (by simp [State.lossTaken]) (by simp [State.lossTaken]) (by simp [State.lossTaken])
  rw [State.reportedTiles_congr rfl rfl rfl rfl hview, ← State.failFirst_tiles]
  exact State.heardSince_tiles _ s

theorem State.lossTaken_record (src : Source) (code : Byte) :
    s.lossTaken.record src code = s.jobsLost.failFirst.record src code := by
  rw [State.lossTaken, State.finish_record, State.heardSince_record]

theorem State.lossTaken_fault : s.lossTaken.record .system driveFaultCode = some s.faultRaised := by
  obtain ⟨halerts, hnow, _⟩ := s.jobsLost_kept
  rw [State.lossTaken_record, State.failFirst_fault, State.faultRaised, hnow, State.record_of_alerts halerts]
  rfl

theorem State.keepsRecords_lossTaken : s.keepsRecords s.lossTaken := fun src code h => by
  rw [State.lossTaken_record, State.keepsRecords_failFirst _ src code h, State.record_of_alerts s.jobsLost_kept.1]

/-- The waits that the banner's reports end: the tiles whose jobs are abandoned are not SETTLED. -/
theorem State.waitsFollow_lossTaken : s.waitsFollow s.lossTaken fun _ w => w.settles s.tiles s.lossTaken.tiles := by
  obtain ⟨_, _, hports, _⟩ := s.jobsLost_kept
  have htiles : s.lossTaken.tiles = s.jobsLost.failFirst.tiles := by
    rw [State.lossTaken, State.finish_tiles, State.heardSince_tiles]
  have hwindows : s.lossTaken.windows = s.jobsLost.failFirst.windows := by
    rw [State.lossTaken, State.finish_windows, State.heardSince_windows]
  have hwaits := s.jobsLost.waitsFollow_failFirst
  rw [← htiles] at hwaits
  refine hwaits.congr (fun q => by rw [hports]) (fun q => ?_) hwindows fun _ w => ?_
  · rw [State.lossTaken, (State.quiet_finish _ q).1, State.heardSince_ports]
  · refine (Window.settles_congr fun n hn => State.jobsLost_tile_of_settled (t := s.lossTaken) (f := bandRows) ?_).symm
    rwa [← State.lossTaken_tiles]

/-- DRIVE_FAULT's notice is handed, and no other. -/
theorem State.told_lossTaken : s.told { s with ports := s.lossTaken.ports } [s.faultNotice] := by
  obtain ⟨halerts, hnow, hports, _⟩ := s.jobsLost_kept
  have hnotice : s.jobsLost.faultNotice = s.faultNotice := by
    rw [State.faultNotice, State.faultNotice, hnow, State.record_of_alerts halerts]
  have hwindows : s.jobsLost.failFirst.windows = s.windows := by rw [s.failFirst_jobsLost_frame]
  refine ⟨{ s with ports := s.jobsLost.failFirst.ports }, fun q => ?_, ?_⟩
  · have hhanded := State.handed_failFirst s.jobsLost q
    rwa [hnotice, hports, hwindows] at hhanded
  · have hheard : s.lossTaken.ports = ({ s with ports := s.jobsLost.failFirst.ports } : State).finish.ports :=
      congrArg (fun v => ({ s with ports := v } : State).finish.ports) (State.heardSince_ports s.jobsLost.failFirst s)
    rw [hheard]
    rfl

theorem State.hears_lossTaken (hs : s.soundOk = true) : s.hears s.lossTaken := by
  have hchimes : s.jobsLost.failFirst.chimes = s.chimes := by rw [s.failFirst_jobsLost_frame]
  have hpattern : s.jobsLost.failFirst.pattern = s.pattern := by rw [s.failFirst_jobsLost_frame]
  have htest : s.jobsLost.failFirst.panelTest = s.panelTest := by rw [s.failFirst_jobsLost_frame]; rfl
  have htones : s.jobsLost.failFirst.tones = s.tones := by rw [s.failFirst_jobsLost_frame]
  exact (State.hears_heardSince hs rfl hchimes hpattern htest htones).finish

end

/-- Power-good asserted in RISING is a rise that finds it asserted (R77, R78). -/
theorem State.assertPowerGood_of_rising {s : State} {n : Nat} (h : s.rail.state = .rising n) :
    s.assertPowerGood = ({ s with powerGood := true } : State).enterRising := by
  unfold State.assertPowerGood
  rw [State.enterRising, if_pos rfl, h]

theorem State.assertPowerGood_of_ne {s : State} (h : ∀ n, s.rail.state ≠ .rising n) :
    s.assertPowerGood = { s with powerGood := true } := by
  unfold State.assertPowerGood
  split
  · next n hs => exact absurd hs (h n)
  · rfl

/-- Settles O34: an assertion in RISING is a rise (`State.heard_enterRising`); a loss in ON is `State.lossTaken`, the
jobs abandoned and then the first failure of a series. -/
theorem powerGoodChanges : Obligations.PowerGoodChanges := by
  unfold Obligations.PowerGoodChanges
  refine ⟨fun s => ⟨fun n hn => ?_, fun hn => ?_⟩, fun s => ⟨fun hoff => ?_, fun hon => ?_⟩⟩
  · refine ⟨s.whole State.assertPowerGood, rfl, ?_, ?_⟩
    · rw [State.whole, State.assertPowerGood_of_rising hn, State.finish_powerGood, State.heardSince_powerGood,
        State.enterRising_powerGood]
    · rw [State.whole, State.assertPowerGood_of_rising hn]
      exact State.risen_enterRising rfl
  · exact congrArg Host.Outcome.next (State.whole_of_rail (State.assertPowerGood_of_ne hn))
  · exact congrArg Host.Outcome.next (State.whole_of_rail (State.losePowerGood_of_off hoff))
  · refine ⟨s.lossTaken, congrArg Host.Outcome.next ?_, s.lossTaken_rail, s.lossTaken_engine, fun n => ?_,
      s.lossTaken_fault, s.keepsRecords_lossTaken, s.waitsFollow_lossTaken, s.told_lossTaken, s.hears_lossTaken,
      s.lossTaken_frame⟩
    · rw [State.whole, State.losePowerGood_of_on hon, State.lossTaken]
    · have htile := s.jobsLost_reported s.lossTaken bandRows n
      rwa [← State.lossTaken_panel, ← State.lossTaken_tiles] at htile

end Sys2Proof.Machine
end

section
/-!
PROOF. A request on the Alert List as a whole: what one whose work is a list event leaves, and LIST_OVERFLOW after an
operation that can remove port records (R111).
-/

namespace Sys2Proof.Machine

/-! ### A request whose work is a list event -/

/-- What a request whose work is the list event `f` leaves: the sounder's choice after the event (R139), the response,
and the frames begun (R192). -/
def State.listRequest (f : State → State) (p : PortId) (tag : Byte) (rc : RequestCode) (st : Status) (r : List Byte)
    (s : State) : State :=
  ((s.heardSince (s.listEvent f)).reply p tag rc (some (st, r))).finish

/-- A request that passes admission and whose block's work is a list event. -/
theorem takeDirect_listRequest {p : PortId} {s : State} (hs : s.serves p) (tag : Byte) (rc : RequestCode)
    {lengthOk inRange sup : Bool} {run : State → State × Reply} {f : State → State} {st : Status} {r : List Byte}
    (hl : lengthOk = true) (hr : inRange = true) (hp : sup = true → s.supervisor = some p)
    (hrun : run s = (s.listEvent f, some (st, r))) :
    takeDirect p (admission p tag rc lengthOk inRange sup run) s = .next (s.listRequest f p tag rc st r) := by
  rw [takeDirect_admitted hs tag rc lengthOk inRange sup run hl hr hp, hrun]
  rfl

/-- A request that passes admission and is refused by its block: nothing else changes. -/
theorem takeDirect_refused {p : PortId} {s : State} (hs : s.serves p) (tag : Byte) (rc : RequestCode)
    {lengthOk inRange sup : Bool} {run : State → State × Reply} {st : Status}
    (hl : lengthOk = true) (hr : inRange = true) (hp : sup = true → s.supervisor = some p)
    (hrun : run s = (s, some (st, []))) :
    takeDirect p (admission p tag rc lengthOk inRange sup run) s = .next (s.refuse p tag rc.byte st).finish := by
  rw [takeDirect_admitted hs tag rc lengthOk inRange sup run hl hr hp, hrun, State.heardSince_self]
  rfl

/-- A change of the list that leaves the records is no event of the list's neighbours (R118). -/
theorem State.listEvent_of_same {f : State → State} {s : State} (h : f s = s) : s.listEvent f = s := by
  rw [State.listEvent, h, if_pos rfl]

/-- The drive's answer to a list event removes no port record: DRIVE_FAULT is none (R91). -/
theorem State.listEvent_portCount (f : State → State) (s : State) :
    portCount (s.listEvent f).alerts = portCount (f s).alerts := by
  unfold State.listEvent
  split_ifs
  · rfl
  · rw [State.driveReact_alerts]
    split_ifs
    · exact State.clear_system_portCount _ _
    · rfl

/-- A list event, as `relisted` tells it, beside a change of the Port Units that leaves their waits. -/
theorem State.relisted.of_ports {s t u : State} (h : s.relisted t) (hu : u = { t with ports := u.ports })
    (hw : ∀ q : PortId, u.ports[q].wait = t.ports[q].wait) : s.relisted u := by
  refine h.of_eq ?_ ?_ ?_ ?_ ?_ ?_ ?_ ?_ ?_ ?_ ?_ ?_ hw <;> rw [hu]

section
variable (f : State → State) (p : PortId) (tag : Byte) (rc : RequestCode) (st : Status) (r : List Byte) (s : State)

theorem State.listRequest_alerts : (s.listRequest f p tag rc st r).alerts = (s.listEvent f).alerts :=
  State.heardSince_alerts _ _

theorem State.listRequest_portCount : portCount (s.listRequest f p tag rc st r).alerts = portCount (f s).alerts := by
  rw [State.listRequest_alerts, State.listEvent_portCount]

variable {f}

/-- The records are those of the change, but for DRIVE_FAULT where the rail reaches ON. -/
theorem State.listRequest_record (hf : ListOnly f) {src : Source} {code : Byte}
    (h : (src, code) ≠ (Source.system, driveFaultCode) ∨ ¬s.risesAtOnce) :
    (s.listRequest f p tag rc st r).record src code = (f s).record src code := by
  rw [State.record_of_alerts (State.listRequest_alerts f p tag rc st r s), State.listEvent_record hf s src code h]

theorem State.relisted_listRequest (hf : ListOnly f) (hq : s.quiet (f s)) :
    s.relisted (s.listRequest f p tag rc st r) :=
  (((State.relisted_listEvent hf hq).heardSince s).of_ports
    (u := (s.heardSince (s.listEvent f)).reply p tag rc (some (st, r))) rfl
    (State.modifyPort_wait fun _ => rfl)).finish

variable {p s}

theorem State.answers_listRequest (hs : s.serves p) (hq : s.quiet (f s)) :
    s.answers (s.listRequest f p tag rc st r) p tag rc st r :=
  ((State.calm_listEvent s (hq.calm p)).trans (State.calm_heardSince p _ s)).answers hs.2 tag rc st r

/-- What a request whose work is a list event comes to, but for the records it names: its response, the records that
stand, the notices of its change, and the picture. -/
theorem State.listRequest_effects (hf : ListOnly f) (hs : s.serves p) (hq : s.quiet (f s)) {ns : List Notice}
    (hn : s.handed (f s) ns) {named : List (Source × Byte)}
    (hkept : ∀ src code, (src, code) ∉ named → (f s).record src code = s.record src code) :
    s.answers (s.listRequest f p tag rc st r) p tag rc st r ∧
    s.keepsRecordsBut (s.listRequest f p tag rc st r) named ∧
    (s.answered p tag rc st r).listedFrom s ns (s.listRequest f p tag rc st r) ∧
    s.relisted (s.listRequest f p tag rc st r) :=
  ⟨State.answers_listRequest tag rc st r hs hq,
    fun src code hnot h => (State.listRequest_record p tag rc st r s hf h).trans (hkept src code hnot),
    State.listedFrom_answered hf hn (PortUnit.canTake_wait hs.2) tag rc st r,
    State.relisted_listRequest p tag rc st r s hf hq⟩

end

/-! ### LIST_OVERFLOW after an operation that can remove port records (R111) -/

theorem ListOnly.now {f : State → State} (h : ListOnly f) (s : State) : (f s).now = s.now := by
  simp only [State.now, h.time]

/-- An operation `g` of the list, and LIST_OVERFLOW cleared after it where R111 says so. -/
def State.thenOverflow (g : State → State) (s : State) : State := (g s).checkOverflow (portCount s.alerts)

/-- The operation names one record and leaves the others; where it names LIST_OVERFLOW it leaves the port record
count. -/
def State.namesRecord (s : State) (g : State → State) (src : Source) (code : Byte) : Prop :=
  (∀ src' code', (src', code') ≠ (src, code) → (g s).record src' code' = s.record src' code') ∧
  ((src, code) = (.system, listOverflowCode) → portCount (g s).alerts = portCount s.alerts)

section
variable {g : State → State} {s : State}

theorem listOnly_thenOverflow (hg : ListOnly g) : ListOnly (State.thenOverflow g) :=
  fun s => (hg.comp (listOnly_checkOverflow (portCount s.alerts))) s

theorem State.quiet_thenOverflow (hq : s.quiet (g s)) : s.quiet (s.thenOverflow g) :=
  hq.trans (State.quiet_checkOverflow _ _)

theorem State.thenOverflow_portCount (g : State → State) (s : State) :
    portCount (s.thenOverflow g).alerts = portCount (g s).alerts :=
  State.checkOverflow_portCount _ _

/-- An operation that leaves the port record count leaves LIST_OVERFLOW to itself. -/
theorem State.thenOverflow_of_portCount (h : portCount (g s).alerts = portCount s.alerts) :
    s.thenOverflow g = g s := by
  rw [State.thenOverflow, State.checkOverflow, if_neg fun hfewer => hfewer.1.ne h]

theorem State.thenOverflow_record_other {src : Source} {code : Byte} (h : (src, code) ≠ (.system, listOverflowCode)) :
    (s.thenOverflow g).record src code = (g s).record src code := by
  rw [State.thenOverflow, State.checkOverflow_record, if_neg fun hcleared => h hcleared.1]

/-- LIST_OVERFLOW after the request, where the operation itself leaves that record. -/
theorem State.overflowFollows_listRequest (hg : ListOnly g)
    (hr : (g s).record .system listOverflowCode = s.record .system listOverflowCode) (p : PortId) (tag : Byte)
    (rc : RequestCode) (st : Status) (r : List Byte) :
    s.overflowFollows (s.listRequest (State.thenOverflow g) p tag rc st r) := by
  unfold State.overflowFollows
  rw [State.listRequest_record p tag rc st r s (listOnly_thenOverflow hg) (Or.inl (by decide)),
    State.listRequest_portCount, State.thenOverflow_portCount, State.thenOverflow, State.checkOverflow_record, hr,
    hg.now]
  simp only [true_and]

/-- The notices of the operation, then LIST_OVERFLOW's: the operation leaves that record, or the port record count. -/
theorem State.handed_thenOverflow (hg : ListOnly g) {ns : List Notice} (hn : s.handed (g s) ns)
    (hr : (g s).record .system listOverflowCode = s.record .system listOverflowCode ∨
      portCount (g s).alerts = portCount s.alerts) {t : State} (ht : portCount t.alerts = portCount (g s).alerts) :
    s.handed (s.thenOverflow g) (ns ++ s.overflowNotices t) := by
  unfold State.overflowNotices
  rw [ht]
  rcases hr with hr | hcount
  · have hover := State.handed_checkOverflow (g s) (portCount s.alerts)
    rw [hr, hg.now] at hover
    exact hn.trans hover ((listOnly_checkOverflow _).windows _)
  · rw [State.thenOverflow_of_portCount hcount, if_neg fun hfewer => hfewer.1.ne hcount, List.append_nil]
    exact hn

variable {src : Source} {code : Byte}

/-- The named record is what the operation itself made it. -/
theorem State.thenOverflow_record_named (h : s.namesRecord g src code) :
    (s.thenOverflow g).record src code = (g s).record src code := by
  by_cases hkey : (src, code) = (.system, listOverflowCode)
  · rw [State.thenOverflow_of_portCount (h.2 hkey)]
  · exact State.thenOverflow_record_other hkey

/-- What a request whose work is such an operation and LIST_OVERFLOW after it comes to. -/
theorem State.overflowRequest_effects (hg : ListOnly g) {p : PortId} (hs : s.serves p) (hq : s.quiet (g s))
    {ns : List Notice} (hn : s.handed (g s) ns) (hnames : s.namesRecord g src code) (tag : Byte) (rc : RequestCode)
    (st : Status) (r : List Byte) :
    let t := s.listRequest (State.thenOverflow g) p tag rc st r
    s.makes t src code ((g s).record src code) ∧ s.answers t p tag rc st r ∧
    ((src, code) ≠ (.system, listOverflowCode) → s.overflowFollows t) ∧
    s.keepsRecordsBut t [(src, code), (.system, listOverflowCode)] ∧
    (s.answered p tag rc st r).listedFrom s (ns ++ s.overflowNotices t) t ∧ s.relisted t := by
  intro t
  obtain ⟨hother, hcount⟩ := hnames
  have hoverflow : (src, code) ≠ (.system, listOverflowCode) →
      (g s).record .system listOverflowCode = s.record .system listOverflowCode := fun hkey => hother _ _ hkey.symm
  have hhanded : s.handed (s.thenOverflow g) (ns ++ s.overflowNotices t) :=
    State.handed_thenOverflow hg hn ((ne_or_eq _ _).imp hoverflow hcount)
      (by rw [State.listRequest_portCount, State.thenOverflow_portCount])
  obtain ⟨hanswer, hkeeps, hlisted, hpicture⟩ := State.listRequest_effects tag rc st r (listOnly_thenOverflow hg) hs
    (State.quiet_thenOverflow hq) hhanded (named := [(src, code), (.system, listOverflowCode)])
    fun src' code' hnot => by
      rw [List.mem_pair, not_or] at hnot
      rw [State.thenOverflow_record_other hnot.2, hother _ _ hnot.1]
  refine ⟨fun hrise => ?_, hanswer, fun hkey => State.overflowFollows_listRequest hg (hoverflow hkey) p tag rc st r,
    hkeeps, hlisted, hpicture⟩
  rw [State.listRequest_record _ _ _ _ _ _ (listOnly_thenOverflow hg) hrise,
    State.thenOverflow_record_named ⟨hother, hcount⟩]

end

end Sys2Proof.Machine
end

section
/-!
PROOF. RAISE_ALERT, CLEAR_ALERT and ACK_ALERT (O37 to O40), and the refusals of the requests on a record (O41).
-/

namespace Sys2Proof.Machine

/-! ### The list after a raise (R90, R95, R99) -/

theorem stageNumber_eq (g : AlertStage) : stageNumber g = g.byte := by cases g <;> rfl

theorem Alert.reraised_isFor (x : RaiseArgs) (a : Alert) (src : Source) (code : Byte) :
    (a.reraised x).isFor src code = a.isFor src code := by
  rw [Alert.reraised_eq ⟨0, 0⟩, Bool.eq_iff_iff, isFor_iff, isFor_iff]
  exact Iff.rfl

theorem State.raise_alerts_of_new {s : State} {src : Source} {code : Byte} (h : s.record src code = none)
    (x : RaiseArgs) : (s.raise src code x).alerts = s.alerts ++ [newAlert src code x s.now] := by
  unfold State.raise
  rw [h]
  rfl

theorem State.raise_alerts_of_present {s : State} {src : Source} {code : Byte} {a : Alert}
    (h : s.record src code = some a) (x : RaiseArgs) : (s.raise src code x).alerts =
      s.alerts.map fun b => if b.isFor src code then b.reraised x else b := by
  unfold State.raise
  rw [h]
  rfl

/-- The list keeps its order, a new record last. -/
theorem State.raise_keys (s : State) (src : Source) (code : Byte) (x : RaiseArgs) :
    (s.raise src code x).alerts.map (fun b => (b.source, b.code)) = s.alerts.map (fun b => (b.source, b.code)) ++
      if s.record src code = none then [(src, code)] else [] := by
  cases hr : s.record src code with
  | none =>
    rw [State.raise_alerts_of_new hr, List.map_append, if_pos rfl]
    rfl
  | some a =>
    rw [State.raise_alerts_of_present hr, List.map_map, if_neg (Option.some_ne_none a), List.append_nil]
    refine List.map_congr_left fun b _ => ?_
    rw [Function.comp_apply, Alert.reraised_eq s.now]
    split_ifs <;> rfl

/-- A raise leaves its record at the position it had, a new one at the end. -/
theorem State.raise_position (s : State) (src : Source) (code : Byte) (x : RaiseArgs) :
    (s.raise src code x).position src code = s.alerts.findIdx fun b => b.isFor src code := by
  unfold State.position
  cases hr : s.record src code with
  | none =>
    have habsent : s.alerts.findIdx (·.isFor src code) = s.alerts.length := by
      rw [List.findIdx_eq_length]
      intro b hb
      simpa using List.find?_eq_none.mp hr b hb
    have hnew : (newAlert src code x s.now).isFor src code = true := isFor_iff.mpr ⟨rfl, rfl⟩
    rw [State.raise_alerts_of_new hr, List.findIdx_append, habsent, if_neg (lt_irrefl _), List.findIdx_cons, hnew]
    exact Nat.zero_add _
  | some a =>
    have hsame : ((·.isFor src code) ∘ fun b : Alert => if b.isFor src code then b.reraised x else b) =
        (·.isFor src code) := by
      funext b
      rw [Function.comp_apply]
      split_ifs
      · exact b.reraised_isFor x src code
      · rfl
    rw [State.raise_alerts_of_present hr, List.findIdx_map, hsame]

/-- The results of an accepted raise (R99, R207; log 23). -/
theorem State.raise_result (s : State) (src : Source) (code : Byte) (x : RaiseArgs) :
    (s.raise src code x).raiseResult src code = [byteOf (s.alerts.findIdx fun b => b.isFor src code),
      stageNumber (afterRaise s.now src code x (s.record src code)).state.stage] := by
  rw [State.raiseResult, State.raise_record, if_pos rfl, stageNumber_eq, State.raise_position]

/-! ### The outcomes of a clear and of an acknowledgement (R207; log 23) -/

theorem State.outcome_of_afterClear {s : State} {src : Source} {code : Byte} {now : Stamp} {a : Alert}
    (h : s.record src code = afterClear now (some a)) :
    s.outcome src code = if (afterClear now (some a)).isSome then 2 else 3 := by
  rw [State.outcome, h]
  unfold afterClear
  cases hstate : a.state <;> simp [hstate, AlertState.stage, AlertStage.byte]

theorem State.outcome_of_afterAck {s : State} {src : Source} {code : Byte} {b : Acker} {now : Stamp} {a : Alert}
    (h : s.record src code = afterAck b now (some a)) :
    s.outcome src code = if (afterAck b now (some a)).isSome then 1 else 3 := by
  rw [State.outcome, h]
  unfold afterAck
  cases hstate : a.state <;> simp [hstate, AlertState.stage, AlertStage.byte]

/-! ### The port record count (R91) -/

theorem State.changeRecord_system_portCount (s : State) (code : Byte) {a : Alert} (ha : a.source = .system) :
    portCount (s.changeRecord .system code fun _ => a).alerts = portCount s.alerts := by
  unfold State.changeRecord portCount
  rw [List.filter_map, List.length_map]
  congr 2
  funext b
  rw [Function.comp_apply]
  split_ifs with hb
  · rw [Alert.ofPort, Alert.ofPort, ha, (isFor_iff.mp hb).1]
  · rfl

theorem State.removeRecord_system_portCount (s : State) (code : Byte) :
    portCount (s.removeRecord .system code).alerts = portCount s.alerts := by
  unfold State.removeRecord portCount
  rw [List.filter_filter]
  congr 2
  funext b
  by_cases hb : b.isFor .system code = true
  · simp [hb, Alert.ofPort, (isFor_iff.mp hb).1]
  · simp [hb]

/-- An acknowledgement of a system record leaves the port record count. -/
theorem State.acknowledge_system_portCount (s : State) (b : Acker) (code : Byte) :
    portCount (s.acknowledge b .system code).alerts = portCount s.alerts := by
  unfold State.acknowledge
  split
  · rfl
  · next a hr =>
    split
    · exact s.changeRecord_system_portCount code (a := { a with state := .activeAck b s.now })
        (State.record_isFor hr).1
    · exact s.removeRecord_system_portCount code
    · rfl

theorem State.namesRecord_clear_port (s : State) (p : PortId) (code : Byte) :
    s.namesRecord (State.clear (.port p) code) (.port p) code :=
  ⟨fun _ _ h => State.clear_record_other h s, by simp⟩

theorem State.namesRecord_acknowledge (s : State) (b : Acker) (src : Source) (code : Byte) :
    s.namesRecord (State.acknowledge b src code) src code := by
  refine ⟨fun src' code' h => by rw [State.acknowledge_record, if_neg h], fun h => ?_⟩
  rw [(Prod.mk.inj h).1]
  exact s.acknowledge_system_portCount b code

/-! ### The requests -/

/-- A record's own port and the supervisor pass the first check of R102. -/
theorem State.not_denied_of_permitted {s : State} {src : Source} {p : PortId}
    (h : src = .port p ∨ s.supervisor = some p) : ¬(src ≠ .port p ∧ s.isSupervisor p = false) :=
  fun hdenied => h.elim hdenied.1 (of_decide_eq_false hdenied.2)

/-- Settles O41: each request's own checks, in their order, before any change. -/
theorem recordRequestRefusals : Obligations.RecordRequestRefusals := by
  unfold Obligations.RecordRequestRefusals
  intro s p tag source code seconds hs hkey hsecs no
  refine ⟨fun hnone => ?_, fun hother hsup => ?_, fun hnone => ⟨fun hmay => ?_, fun hsup => ⟨?_, ?_⟩⟩⟩
  · exact takeDirect_refused hs tag .clearAlert rfl rfl nofun (if_pos hnone)
  · exact takeDirect_refused hs tag .ackAlert rfl hkey nofun
      (if_pos ⟨hother, decide_eq_false hsup⟩)
  · exact takeDirect_refused hs tag .ackAlert rfl hkey nofun
      ((if_neg (State.not_denied_of_permitted hmay)).trans (if_pos hnone))
  · exact takeDirect_refused hs tag .shelveAlert rfl (by rw [shelveAlertOk, hkey, decide_eq_true hsecs]; rfl)
      (fun _ => hsup) (if_pos hnone)
  · exact takeDirect_refused hs tag .unshelveAlert rfl hkey (fun _ => hsup) (if_pos hnone)

/-- Settles O37: the record, the position and the order are those of the raise, which leaves every other record. -/
theorem raiseAlertRaises : Obligations.RaiseAlertRaises := by
  unfold Obligations.RaiseAlertRaises
  intro s p tag code area cls severity lamp tone message hs hlength hrange hroom x a results u
  have hf : ListOnly (State.raise (.port p) code x) := listOnly_raise _ _ _
  have hrun : runRaiseAlert p code (raiseArgs area cls severity lamp tone message) s =
      (s.listEvent (State.raise (.port p) code x), some (.ok, results)) := by
    rw [runRaiseAlert, if_neg fun h => hroom.elim (· h.1) fun hlt => absurd h.2 (not_le.mpr hlt)]
    exact congrArg (fun r => (s.listEvent (State.raise (.port p) code x), some (Status.ok, r))) (s.raise_result _ _ _)
  obtain ⟨hanswer, hkeeps, hlisted, hpicture⟩ := State.listRequest_effects tag .raiseAlert .ok results hf hs
    (s.quiet_raise (.port p) code x) (s.handed_raise (.port p) code x) (named := [(.port p, code)])
    fun src c hnot => by rw [State.raise_record, if_neg (mt List.mem_singleton.mpr hnot)]
  refine ⟨_, takeDirect_listRequest hs tag .raiseAlert hlength hrange nofun hrun, ?_, hanswer, fun hrise => ?_,
    hkeeps, hlisted, hpicture⟩
  · rw [State.listRequest_record _ _ _ _ _ _ hf (Or.inl (by simp)), State.raise_record, if_pos rfl]
  · rw [State.listRequest_alerts, State.listEvent_alerts hf s hrise, State.raise_keys]

/-- Settles O38: with 32 port records present the work is LIST_OVERFLOW's raise. -/
theorem raiseAlertListFull : Obligations.RaiseAlertListFull := by
  unfold Obligations.RaiseAlertListFull
  intro s p tag code area cls severity lamp tone message hs hlength hrange hnew hfull
  obtain ⟨hanswer, hkeeps, hlisted, hpicture⟩ := State.listRequest_effects tag .raiseAlert .listFull []
    listOnly_raiseListOverflow hs (s.quiet_raise _ _ _) (s.handed_raise _ _ _)
    (named := [(.system, listOverflowCode)])
    fun src c hnot => (s.raise_record _ _ _ _ _).trans (if_neg (mt List.mem_singleton.mpr hnot))
  refine ⟨rfl, rfl, _, takeDirect_listRequest hs tag .raiseAlert hlength hrange nofun (if_pos ⟨hnew, hfull⟩), hanswer,
    ?_, hkeeps, hlisted, hpicture⟩
  rw [State.listRequest_record _ _ _ _ _ _ listOnly_raiseListOverflow (Or.inl (by decide)), State.raiseListOverflow,
    State.raise_record, if_pos rfl]
  rfl

/-- Settles O39: the clear, then LIST_OVERFLOW (`State.thenOverflow`), which is another record. -/
theorem clearAlertClears : Obligations.ClearAlertClears := by
  unfold Obligations.ClearAlertClears
  intro s p tag code a hs hrecord after u
  have hnames := s.namesRecord_clear_port p code
  have hafter : (s.clear (.port p) code).record (.port p) code = after := by
    rw [State.clear_record, if_pos rfl, hrecord]
  have hrun : runClearAlert p code s = (s.listEvent (State.thenOverflow (State.clear (.port p) code)),
      some (.ok, [if after.isSome then 2 else 3])) := by
    rw [runClearAlert, if_neg (by simp [hrecord]),
      ← State.outcome_of_afterClear ((State.thenOverflow_record_named hnames).trans hafter)]
    rfl
  have hhanded := s.handed_clear (.port p) code
  rw [hrecord] at hhanded
  obtain ⟨hmakes, hanswer, hfollows, hkeeps, hlisted, hpicture⟩ := State.overflowRequest_effects (listOnly_clear _ _) hs
    (s.quiet_clear _ _) hhanded hnames tag .clearAlert .ok [if after.isSome then 2 else 3]
  rw [hafter] at hmakes
  exact ⟨_, takeDirect_listRequest hs tag .clearAlert rfl rfl nofun hrun, hmakes (Or.inl (by simp)), hanswer,
    hfollows (by simp), hkeeps, hlisted, hpicture⟩

/-- Settles O40: the acknowledgement, then LIST_OVERFLOW (`State.thenOverflow`), which may be the record itself. -/
theorem ackAlertAcknowledges : Obligations.AckAlertAcknowledges := by
  unfold Obligations.AckAlertAcknowledges
  intro s p tag source code a hs hkey hmay hrecord after u
  have hnames := s.namesRecord_acknowledge (.port p) (sourceOf source) code
  have hafter : (s.acknowledge (.port p) (sourceOf source) code).record (sourceOf source) code = after := by
    rw [State.acknowledge_record, if_pos rfl, hrecord]
  have hrun : runAckAlert p source code s =
      (s.listEvent (State.thenOverflow (State.acknowledge (.port p) (sourceOf source) code)),
        some (.ok, [if after.isSome then 1 else 3])) := by
    rw [runAckAlert, if_neg (State.not_denied_of_permitted hmay), if_neg (by simp [hrecord]),
      ← State.outcome_of_afterAck ((State.thenOverflow_record_named hnames).trans hafter)]
    rfl
  have hhanded := s.handed_acknowledge (.port p) (sourceOf source) code
  rw [hrecord] at hhanded
  obtain ⟨hmakes, heffects⟩ := State.overflowRequest_effects (listOnly_acknowledge _ _ _) hs
    (s.quiet_acknowledge _ _ _) hhanded hnames tag .ackAlert .ok [if after.isSome then 1 else 3]
  rw [hafter] at hmakes
  exact ⟨_, takeDirect_listRequest hs tag .ackAlert rfl hkey nofun hrun, hmakes, heffects⟩

end Sys2Proof.Machine
end

section
/-!
PROOF. SHELVE_ALERT, UNSHELVE_ALERT and SHELVING_EXPIRY (O42, O43): the expiry's comparison as one change of the list.
-/

namespace Sys2Proof.Machine

/-! ### SHELVE_ALERT and UNSHELVE_ALERT (R107, R108) -/

theorem State.unshelve_of_unshelved {s : State} {src : Source} {code : Byte} {a : Alert}
    (h : s.record src code = some a) (ha : a.shelved = none) : s.unshelve src code = s := by
  simp only [State.unshelve, h, ha]

/-- Settles O42: each is a list event that reaches its own record alone; unshelving a record that is not shelved is
none. -/
theorem shelvingRequests : Obligations.ShelvingRequests := by
  unfold Obligations.ShelvingRequests
  intro s p tag source code seconds a hs hsup hkey hrecord key expiry
  have hpresent : s.record (sourceOf source) code ≠ none := by simp [hrecord]
  have hrun : runUnshelveAlert source code s = (s.listEvent (State.unshelve (sourceOf source) code), some (.ok, [])) :=
    if_neg hpresent
  have hunshelve : exec (.unshelveAlert p tag source code) s =
      .next (s.listRequest (State.unshelve (sourceOf source) code) p tag .unshelveAlert .ok []) :=
    takeDirect_listRequest hs tag .unshelveAlert rfl hkey (fun _ => hsup) hrun
  refine ⟨fun hsecs => ?_, fun hshelved => ?_, fun hnot => ?_⟩
  · have hf : ListOnly (State.shelve (sourceOf source) code seconds.toNat) := listOnly_shelve _ _ _
    obtain ⟨hanswer, hkeeps, hlisted, hpicture⟩ := State.listRequest_effects tag .shelveAlert .ok [] hf hs
      (s.quiet_shelve _ _ _) (State.handed_shelve hrecord _) (named := [key])
      fun src c hnot => by rw [State.shelve_record, if_neg (mt List.mem_singleton.mpr hnot)]
    refine ⟨_, takeDirect_listRequest hs tag .shelveAlert rfl (by rw [shelveAlertOk, hkey, decide_eq_true hsecs]; rfl)
      (fun _ => hsup) (if_neg hpresent), hanswer, fun hrise => ?_, hkeeps, hpicture, hlisted⟩
    rw [State.listRequest_record _ _ _ _ _ _ hf hrise, State.shelve_record, if_pos rfl, hrecord]
    rfl
  · have hf : ListOnly (State.unshelve (sourceOf source) code) := listOnly_unshelve _ _
    have hhanded := s.handed_unshelve (sourceOf source) code
    rw [hrecord, unshelveNotices, if_neg hshelved] at hhanded
    obtain ⟨hanswer, hkeeps, hlisted, hpicture⟩ := State.listRequest_effects tag .unshelveAlert .ok [] hf hs
      (s.quiet_unshelve _ _) hhanded (named := [key])
      fun src c hnot => by rw [State.unshelve_record, if_neg (mt List.mem_singleton.mpr hnot)]
    refine ⟨_, hunshelve, hanswer, fun hrise => ?_, hkeeps, hpicture, hlisted⟩
    rw [State.listRequest_record _ _ _ _ _ _ hf hrise, State.unshelve_record, if_pos rfl, hrecord]
    rfl
  · refine hunshelve.trans (congrArg Host.Outcome.next ?_)
    rw [State.listRequest, State.listEvent_of_same (State.unshelve_of_unshelved hrecord hnot), State.heardSince_self]
    rfl

/-! ### The list after the expiries (R109) -/

/-- No two records have one source and code (R90). -/
def uniqueKeys (l : List Alert) : Prop := (l.map fun a => (a.source, a.code)).Nodup

theorem State.uniqueKeys_of_alertsOk {s : State} (h : s.alertsOk = true) : uniqueKeys s.alerts := by
  simp only [State.alertsOk, Bool.and_eq_true, decide_eq_true_eq] at h
  exact h.1.2

theorem uniqueKeys.eq {l : List Alert} (h : uniqueKeys l) {a b : Alert} (ha : a ∈ l) (hb : b ∈ l)
    (hkey : (a.source, a.code) = (b.source, b.code)) : a = b :=
  List.inj_on_of_nodup_map h ha hb hkey

/-- The record with its shelving ended. -/
def Alert.unshelved (a : Alert) : Alert := { a with shelved := none }

/-- The records under these keys, unshelved; every other as it is. -/
def Alert.unshelvedIn (ks : List (Source × Byte)) (a : Alert) : Alert :=
  if (a.source, a.code) ∈ ks then a.unshelved else a

theorem Alert.unshelvedIn_key (ks : List (Source × Byte)) (a : Alert) :
    ((a.unshelvedIn ks).source, (a.unshelvedIn ks).code) = (a.source, a.code) := by
  unfold Alert.unshelvedIn
  split_ifs <;> rfl

theorem Alert.unshelvedIn_cons (k : Source × Byte) (ks : List (Source × Byte)) (a : Alert) :
    (a.unshelvedIn [k]).unshelvedIn ks = a.unshelvedIn (k :: ks) := by
  rw [Alert.unshelvedIn, Alert.unshelvedIn_key, Alert.unshelvedIn, Alert.unshelvedIn]
  by_cases hk : (a.source, a.code) = k
  · simp [hk, Alert.unshelved]
  · simp [hk]

theorem uniqueKeys.map_unshelvedIn {l : List Alert} (h : uniqueKeys l) (ks : List (Source × Byte)) :
    uniqueKeys (l.map (Alert.unshelvedIn ks)) := by
  unfold uniqueKeys at h ⊢
  rwa [List.map_map, List.map_congr_left fun a _ => a.unshelvedIn_key ks]

/-- In such a list each record is the one found under its source and code. -/
theorem uniqueKeys.record {s : State} (h : uniqueKeys s.alerts) {src : Source} {code : Byte} {a : Alert}
    (ha : a ∈ s.alerts) (hfor : a.isFor src code = true) : s.record src code = some a := by
  cases hr : s.record src code with
  | none => exact absurd hfor (List.find?_eq_none.mp hr a ha)
  | some r =>
    obtain ⟨hsource, hcode⟩ := State.record_isFor hr
    obtain ⟨rfl, rfl⟩ := isFor_iff.mp hfor
    rw [h.eq (List.mem_of_find?_eq_some hr) ha (by rw [hsource, hcode])]

/-- The end of one shelving, in a list without two records of one source and code. -/
theorem State.unshelve_alerts {s : State} (h : uniqueKeys s.alerts) (k : Source × Byte) :
    (s.unshelve k.1 k.2).alerts = s.alerts.map (Alert.unshelvedIn [k]) := by
  have hin : ∀ a : Alert, (a.source, a.code) ∈ [k] ↔ a.isFor k.1 k.2 = true := fun a => by
    rw [List.mem_singleton, isFor_iff, Prod.ext_iff]
  have hsame : (∀ a ∈ s.alerts, a.isFor k.1 k.2 = true → a.unshelved = a) →
      s.alerts = s.alerts.map (Alert.unshelvedIn [k]) := fun hs => by
    conv_lhs => rw [← List.map_id s.alerts]
    refine List.map_congr_left fun a ha => ?_
    unfold Alert.unshelvedIn
    split_ifs with hk
    · exact (hs a ha ((hin a).mp hk)).symm
    · rfl
  unfold State.unshelve
  split
  · next hr => exact hsame fun a ha hfor => absurd hfor (List.find?_eq_none.mp hr a ha)
  · next r hr =>
    have hone : ∀ a ∈ s.alerts, a.isFor k.1 k.2 = true → a = r := fun a ha hfor =>
      Option.some.inj ((h.record ha hfor).symm.trans hr)
    split
    · next hnot =>
      refine hsame fun a ha hfor => ?_
      rw [hone a ha hfor, Alert.unshelved, ← hnot]
    · refine List.map_congr_left fun a ha => ?_
      unfold Alert.unshelvedIn
      rw [if_congr (hin a) rfl rfl]
      split_ifs with hfor
      · rw [hone a ha hfor]
        rfl
      · rfl

theorem State.foldl_unshelve_alerts (ks : List (Source × Byte)) {s : State} (h : uniqueKeys s.alerts) :
    (ks.foldl (fun t k => t.unshelve k.1 k.2) s).alerts = s.alerts.map (Alert.unshelvedIn ks) := by
  induction ks generalizing s with
  | nil => exact (List.map_id _).symm
  | cons k ks ih =>
    have hone := State.unshelve_alerts h k
    rw [List.foldl_cons, ih (by rw [hone]; exact h.map_unshelvedIn [k]), hone, List.map_map]
    exact List.map_congr_left fun a _ => a.unshelvedIn_cons k ks

/-- The record after a comparison of its expiry with the seconds count (R109). -/
def Alert.afterExpiry (seconds : BitVec 32) (a : Alert) : Alert :=
  match a.shelved with
  | some e => if e.toNat ≤ seconds.toNat then { a with shelved := none } else a
  | none => a

theorem Alert.afterExpiry_eq (seconds : BitVec 32) (a : Alert) :
    a.afterExpiry seconds = if a.expired seconds = true then a.unshelved else a := by
  unfold Alert.afterExpiry Alert.expired
  cases a.shelved <;> simp [Alert.unshelved]

theorem Alert.afterExpiry_isFor (seconds : BitVec 32) (src : Source) (code : Byte) (a : Alert) :
    (a.afterExpiry seconds).isFor src code = a.isFor src code := by
  rw [Alert.afterExpiry_eq]
  split_ifs <;> rfl

/-- The comparison unshelves every record whose expiry is reached, in its place. -/
theorem State.unshelveExpired_alerts {s : State} (h : uniqueKeys s.alerts) :
    s.unshelveExpired.alerts = s.alerts.map (Alert.afterExpiry s.time.seconds) := by
  unfold State.unshelveExpired
  rw [State.foldl_unshelve_alerts _ h]
  refine List.map_congr_left fun a ha => ?_
  have hin : (a.source, a.code) ∈ (s.alerts.filter (Alert.expired s.time.seconds)).map
      (fun b => (b.source, b.code)) ↔ a.expired s.time.seconds = true := by
    rw [List.mem_map]
    constructor
    · rintro ⟨b, hb, hkey⟩
      obtain ⟨hmem, hexpired⟩ := List.mem_filter.mp hb
      rwa [← h.eq hmem ha hkey]
    · exact fun hexpired => ⟨a, List.mem_filter.mpr ⟨ha, hexpired⟩, rfl⟩
  rw [Alert.unshelvedIn, Alert.afterExpiry_eq, if_congr hin rfl rfl]

/-! ### SHELVING_EXPIRY (R109) -/

/-- The banner's reports, the waits and the drive's answer read nothing of the mark (log 2). -/
theorem State.relisted.of_shelvingDue {s t : State} {b : Bool} (h : ({ s with shelvingDue := b } : State).relisted t) :
    s.relisted t := by
  obtain ⟨l, hl, hpicture⟩ := h
  refine ⟨l, hl.trans (if_congr Iff.rfl ?_ rfl), hpicture⟩
  exact State.clear_alerts_congr (s := { s with alerts := l }) (t := { s with alerts := l, shelvingDue := b }) rfl rfl
    _ _

/-- A list event after which each record is `f` of what it was. -/
theorem State.recordsBecome_listEvent {s : State} {g : State → State} (hg : ListOnly g) {f : Alert → Alert}
    (halerts : (g s).alerts = s.alerts.map f) (hf : ∀ src code a, (f a).isFor src code = a.isFor src code) :
    s.recordsBecome (s.listEvent g) f := by
  refine ⟨fun src code h => ?_, fun hrise => by rw [State.listEvent_alerts hg s hrise, halerts]⟩
  rw [State.listEvent_record hg s src code h, State.record, State.record, halerts, List.find?_map]
  exact congrArg (fun q => (s.alerts.find? q).map f) (funext (hf src code))

theorem State.recordsBecome.of_alerts {s t u : State} {f : Alert → Alert} (h : s.recordsBecome t f)
    (hu : u.alerts = t.alerts) : s.recordsBecome u f :=
  ⟨fun src code hrise => (State.record_of_alerts hu src code).trans (h.1 src code hrise),
    fun hrise => hu.trans (h.2 hrise)⟩

/-- The state with the mark of a due expiry taken. -/
def State.shelvingTaken (s : State) : State := { s with shelvingDue := false }

theorem State.expireShelving_of_due {s : State} (h : s.shelvingDue = true) :
    s.expireShelving = s.shelvingTaken.listEvent State.unshelveExpired := by
  rw [State.expireShelving, if_pos h]
  rfl

theorem State.expireShelving_of_not_due {s : State} (h : s.shelvingDue = false) : s.expireShelving = s := by
  rw [State.expireShelving, h]
  rfl

/-- Settles O43: a due expiry is one list event, the comparison of every record; without the mark nothing happens. -/
theorem shelvingExpiryUnshelves : Obligations.ShelvingExpiryUnshelves := by
  unfold Obligations.ShelvingExpiryUnshelves
  intro s hok
  refine ⟨fun hdue => congrArg Host.Outcome.next (State.whole_of_unchanged (State.expireShelving_of_not_due hdue)),
    fun hdue => ?_⟩
  have hlist := listOnly_unshelveExpired
  have hbecome : s.shelvingTaken.recordsBecome (s.shelvingTaken.listEvent State.unshelveExpired)
      (Alert.afterExpiry s.time.seconds) :=
    State.recordsBecome_listEvent hlist
      (State.unshelveExpired_alerts (s := s.shelvingTaken) (State.uniqueKeys_of_alertsOk hok))
      (Alert.afterExpiry_isFor _)
  refine ⟨s.whole State.expireShelving, rfl, ?_⟩
  rw [State.whole, State.expireShelving_of_due hdue]
  exact ⟨hbecome.of_alerts (State.heardSince_alerts _ s),
    State.listedFrom_whole hlist (State.handed_unshelveExpired (s := s.shelvingTaken) hok) rfl,
    ((State.relisted_listEvent hlist (State.quiet_unshelveExpired _)).of_shelvingDue.heardSince s).finish⟩

end Sys2Proof.Machine
end

section
/-!
PROOF. The lamps (O44), the cells of the band, and the requests on the overlays (O48).
-/

namespace Sys2Proof.Machine

/-! ### The lamps (R130) -/

/-- Panel test is active by the TEST key or by the remote test flag (R7, R156). -/
theorem State.panelTest_iff (s : State) :
    s.panelTest = true ↔ s.keys.test.held = true ∨ s.remoteTest = true := by
  rw [State.panelTest, Bool.or_eq_true]

/-- The rows of R130, in their order. -/
theorem State.lamp_eq (s : State) (l : LampId) : s.lamp l =
    if s.keys.test.held = true ∨ s.remoteTest = true then .on
    else if ∃ a ∈ s.alerts, a.lamp = some l ∧ a.state = .activeUnack ∧ a.shelved = none then .flash
    else if ∃ a ∈ s.alerts, a.lamp = some l then .on else .off := by
  have hany (q : Alert → Prop) [DecidablePred q] :
      (s.alerts.any fun a => decide (q a)) = true ↔ ∃ a ∈ s.alerts, q a := by
    simp only [List.any_eq_true, decide_eq_true_eq]
  unfold State.lamp
  exact if_congr s.panelTest_iff rfl (if_congr (hany _) rfl (if_congr (hany _) rfl rfl))

/-- A lamp is lit when ON, and when FLASH in an ON phase (R14). -/
theorem State.lampLit_eq (s : State) (l : LampId) :
    s.lampLit l = decide (s.lamp l = .on ∨ (s.lamp l = .flash ∧ s.time.phase = true)) := by
  unfold State.lampLit
  cases s.lamp l <;> simp

/-- Settles O44: the two derivations row by row, and no record names a lamp after reset. -/
theorem lampsFollowTheList : Obligations.LampsFollowTheList := by
  unfold Obligations.LampsFollowTheList
  exact ⟨State.lamp_eq, State.lampLit_eq, State.lamp_of_no_alert State.reset_panelTest rfl⟩

/-! ### What the band holds (R122, R123, R126) -/

/-- While the banner shows, the band holds the shown records row by row, and counts those beyond its height. -/
theorem State.bandOf_bannerRecords {s : State} (h : s.bannerRecords ≠ []) :
    ∃ b, bandOf s.alerts s.bandHeight = some b ∧ b.height = s.bandHeight ∧
      b.count = s.bannerRecords.length - s.bandHeight ∧ ∀ row < 2, b.rowRecord row = s.bannerRecords[row]? := by
  rw [State.bannerRecords_eq_selection] at h ⊢
  unfold bandOf
  cases hl : selection s.alerts with
  | nil => exact absurd hl h
  | cons a rest =>
    refine ⟨_, rfl, rfl, rfl, fun row hrow => ?_⟩
    obtain rfl | rfl : row = 0 ∨ row = 1 := by omega
    · rfl
    · exact List.head?_eq_getElem?

/-! ### The cells of the band (R124 to R126) -/

/-- Columns 0 to 35 hold the tag, a space and the message, and blanks after them (R124). -/
theorem alertGlyph_eq (a : Alert) {col : Nat} (h : col < 36) :
    alertGlyph a col = (a.severity.tag ++ [32] ++ a.message).getD col 32 := by
  have htag : a.severity.tag.length = 3 := by cases a.severity <;> rfl
  have hhead : (a.severity.tag ++ [32]).length = 4 := by rw [List.length_append, htag]; rfl
  unfold alertGlyph
  split_ifs with htagCol hspace
  · rw [List.getD_append _ _ _ _ (by omega), List.getD_append _ _ _ _ (by omega)]
  · obtain rfl : col = 3 := by omega
    rw [List.getD_append _ _ _ _ (by omega), List.getD_append_right _ _ _ _ (by omega), htag]
    rfl
  · rw [List.getD_append_right _ _ _ _ (by omega), hhead]

/-- The attributes of an alert row: inverse in ringback, blinking otherwise (R125). -/
theorem alertCell_eq (a : Alert) {col : Nat} (h : col < 36) : alertCell a col =
    if a.state.stage = .clearedUnack then ⟨(a.severity.tag ++ [32] ++ a.message).getD col 32, false, .inverse⟩
    else ⟨(a.severity.tag ++ [32] ++ a.message).getD col 32, true, .normal⟩ := by
  unfold alertCell
  rw [if_pos h, alertGlyph_eq a h]
  cases a.state <;> rfl

theorem alertCell_of_last (a : Alert) {col : Nat} (h : ¬col < 36) : alertCell a col = background := if_neg h

section
variable {b : Band} {row col : Nat}

theorem Band.cell_of_record {a : Alert} (hcol : col < 37) (ha : b.rowRecord row = some a) :
    b.cell row col = alertCell a col := by
  rw [Band.cell, if_neg (by omega), ha]

theorem Band.cell_of_no_record (hcol : col < 37) (hnone : b.rowRecord row = none) : b.cell row col = background := by
  rw [Band.cell, if_neg (by omega), hnone]

/-- Column 36 is blank in every row, with a record or without (R124). -/
theorem Band.cell_of_gap : b.cell row 36 = background := by
  cases hrec : b.rowRecord row with
  | none => exact Band.cell_of_no_record (by decide) hrec
  | some a => exact (Band.cell_of_record (by decide) hrec).trans (alertCell_of_last a (by decide))

theorem Band.cell_of_count (hcol : 37 ≤ col) (hrow : row + 1 = b.height) :
    b.cell row col = ⟨countGlyph b.count col, false, .normal⟩ := by
  rw [Band.cell, if_pos hcol, if_pos hrow]

theorem Band.cell_above_count (hcol : 37 ≤ col) (hrow : row + 1 ≠ b.height) : b.cell row col = background := by
  rw [Band.cell, if_pos hcol, if_neg hrow]

/-- The count field is blank above the last row, and in it where every record is shown (R126). -/
theorem Band.cell_of_no_count (hcol : 37 ≤ col) (h : row + 1 < b.height ∨ b.count = 0) :
    b.cell row col = background := by
  by_cases hrow : row + 1 = b.height
  · have hzero : b.count = 0 := h.resolve_left (by omega)
    rw [Band.cell_of_count hcol hrow, hzero]
    rfl
  · exact Band.cell_above_count hcol hrow

theorem countGlyph_of_pos {count : Nat} (h : 1 ≤ count) (col : Nat) : countGlyph count col =
    if col = 37 then 43 else if col = 38 then byteOf (48 + count / 10) else byteOf (48 + count % 10) :=
  if_neg (by omega)

end

/-! ### A request of which the sounder hears nothing -/

/-- A request that passes admission and whose block's work changes none of the sounder's inputs: the sounder does not
choose (R139). -/
theorem takeDirect_unheard {p : PortId} {s u : State} (hs : s.serves p) (tag : Byte) (rc : RequestCode)
    {lengthOk inRange sup : Bool} {run : State → State × Reply} {st : Status} {r : List Byte}
    (hl : lengthOk = true) (hr : inRange = true) (hp : sup = true → s.supervisor = some p)
    (hrun : run s = (u, some (st, r))) (ha : u.alerts = s.alerts) (ht : u.panelTest = s.panelTest)
    (hc : u.chimes = s.chimes) :
    takeDirect p (admission p tag rc lengthOk inRange sup run) s = .next (u.reply p tag rc (some (st, r))).finish := by
  rw [takeDirect_admitted hs tag rc lengthOk inRange sup run hl hr hp, hrun, State.heardSince_of_same ha ht hc]

/-! ### The picture after the sounder's choice and the response -/

theorem State.redrawn.heardSince {s t : State} {f : TileId → Bool} (h : s.redrawn t f) (b : State) :
    s.redrawn (b.heardSince t) f :=
  h.of_eq (by simp) (by simp) (State.alike_of_eq (by simp) (by simp) (by simp) (by simp) (by simp) (by simp) (by simp))
    (State.alike_of_eq rfl (by simp) (by simp) (by simp) (by simp) (by simp) (by simp)) (by simp)
    (by simp [State.now]) (by simp) (by simp) (by simp) fun _ => by simp

/-- A response leaves the picture and the waits. -/
theorem State.redrawn.reply {s t : State} {f : TileId → Bool} (h : s.redrawn t f) (p : PortId) (tag : Byte)
    (rc : RequestCode) (st : Status) (r : List Byte) : s.redrawn (t.reply p tag rc (some (st, r))) f :=
  h.of_eq rfl rfl t.alike_refl (State.alike_refl _) rfl rfl rfl rfl rfl (State.modifyPort_wait fun _ => rfl)

theorem State.redrawn.finish {s t : State} {f : TileId → Bool} (h : s.redrawn t f) : s.redrawn t.finish f :=
  h.of_eq rfl rfl t.alike_refl (State.alike_refl _) rfl rfl rfl rfl rfl fun q => (t.quiet_finish q).1

/-! ### A request on an overlay (R128, R157, R159) -/

/-- The state with this band height, blank flag and remote test flag. -/
def State.withOverlays (height : Nat) (blank test : Bool) (s : State) : State :=
  { s with
    bandHeight := height
    blank := blank
    remoteTest := test }

/-- What a request leaves whose work is the composition event from `s` to `u`: the sounder's choice after it (R139),
the response, and the frames begun (R192). -/
def State.overlayRequest (s u : State) (ns : List TileId) (p : PortId) (tag : Byte) (rc : RequestCode) : State :=
  ((s.heardSince (u.composed s.view ns)).reply p tag rc (some (.ok, []))).finish

/-- A request that passes admission and whose block's work is a composition event. -/
theorem takeDirect_overlayRequest {p : PortId} {s u : State} (hs : s.serves p) (tag : Byte) (rc : RequestCode)
    {lengthOk inRange sup : Bool} {run : State → State × Reply} {ns : List TileId} (hl : lengthOk = true)
    (hr : inRange = true) (hp : sup = true → s.supervisor = some p)
    (hrun : run s = (u.composed s.view ns, some (.ok, []))) :
    takeDirect p (admission p tag rc lengthOk inRange sup run) s = .next (s.overlayRequest u ns p tag rc) := by
  rw [takeDirect_admitted hs tag rc lengthOk inRange sup run hl hr hp, hrun]
  rfl

section
variable {s : State} {height : Nat} {blank test : Bool} {p : PortId} (ns : List TileId) (tag : Byte) (rc : RequestCode)

theorem State.answers_overlayRequest (hs : s.serves p) :
    s.answers (s.overlayRequest (s.withOverlays height blank test) ns p tag rc) p tag rc .ok [] :=
  (((State.calm_of_ports (t := s.withOverlays height blank test) rfl).trans (State.calm_composed p _ s.view ns)).trans
    (State.calm_heardSince p _ s)).answers hs.2 tag rc .ok []

/-- The tiles `ns` are reported, the waits that this settles end, and the drive answers. -/
theorem State.redrawn_overlayRequest {f : TileId → Bool} (hd : ns.Nodup) (hf : ∀ n, f n = true ↔ n ∈ ns) :
    s.redrawn (s.overlayRequest (s.withOverlays height blank test) ns p tag rc) f := by
  have hcomposed : s.redrawn ((s.withOverlays height blank test).composed s.view ns) f :=
    State.redrawn_composed hd hf rfl rfl rfl rfl rfl rfl rfl (State.waitsFollow_of_waits fun _ => rfl)
  exact ((hcomposed.heardSince s).reply p tag rc .ok []).finish

/-- The choice at the end of the request, from the new overlays. -/
theorem State.hears_overlayRequest (hok : s.soundOk = true) :
    ((s.withOverlays height blank test).answered p tag rc .ok []).hears
      ((s.heardSince ((s.withOverlays height blank test).composed s.view ns)).reply p tag rc (some (.ok, []))) :=
  (State.hears_heardSince (s := s.withOverlays height blank test) hok rfl (State.composed_chimes _ _ _)
    (State.composed_pattern _ _ _) (by simp [State.panelTest]) (State.composed_tones _ _ _)).answered p tag rc .ok []

/-- An overlay that is not the panel test's leaves all but the picture. -/
theorem State.drawnFrom_overlayRequest (hs : s.serves p) :
    ((s.withOverlays height blank s.remoteTest).answered p tag rc .ok []).drawnFrom
      (s.overlayRequest (s.withOverlays height blank s.remoteTest) ns p tag rc) :=
  ⟨_, ((State.drawnTo_composed (s.withOverlays height blank s.remoteTest) s.view ns).heard (b := s) rfl rfl
    rfl).answered (PortUnit.canTake_wait hs.2) tag rc .ok [], fun hok => State.hears_overlayRequest ns tag rc hok,
    rfl⟩

/-- No notice is handed but DRIVE_FAULT's, and the sounder chooses after the event. -/
theorem State.listedFrom_overlayRequest (hs : s.serves p) :
    ((s.withOverlays height blank test).answered p tag rc .ok []).listedFrom s []
      (s.overlayRequest (s.withOverlays height blank test) ns p tag rc) :=
  ⟨_, ((State.drawnTo_composed (s.withOverlays height blank test) s.view ns).listed.heard s).answered
    (PortUnit.canTake_wait hs.2) tag rc .ok [], State.hears_overlayRequest ns tag rc, rfl⟩

/-- Every record stands but DRIVE_FAULT, which the rail's reaching ON clears (R78). -/
theorem State.keepsRecords_overlayRequest :
    s.keepsRecords (s.overlayRequest (s.withOverlays height blank test) ns p tag rc) := by
  obtain ⟨_, _, _, _, hkeeps, _⟩ := State.drawnTo_composed (s.withOverlays height blank test) s.view ns
  exact State.keepsRecords.trans hkeeps (State.keepsRecords_of_alerts (State.heardSince_alerts _ s))

/-- A change of panel test active has the sounder choose, whatever it played (R139, R158). -/
theorem State.soundOk_overlayRequest (h : (s.withOverlays height blank test).panelTest ≠ s.panelTest) :
    (s.overlayRequest (s.withOverlays height blank test) ns p tag rc).soundOk = true := by
  have htest : ((s.withOverlays height blank test).composed s.view ns).panelTest =
      (s.withOverlays height blank test).panelTest := by simp [State.panelTest]
  have hchoose : s.heardSince ((s.withOverlays height blank test).composed s.view ns) =
      ((s.withOverlays height blank test).composed s.view ns).chooseSource :=
    if_neg fun hsame => h (htest.symm.trans hsame.2.1)
  rw [State.overlayRequest, hchoose]
  exact State.soundOk_chooseSource _

end

/-! ### The work of each request -/

theorem runSetBanner_of_held {s : State} {height : Byte} (h : s.bandHeight = height.toNat) :
    runSetBanner height s = (s, some (.ok, [])) := by
  rw [runSetBanner, if_pos h]

theorem runSetBanner_of_new {s : State} {height : Byte} (h : s.bandHeight ≠ height.toNat) :
    runSetBanner height s =
      ((s.withOverlays height.toNat s.blank s.remoteTest).composed s.view bandTiles, some (.ok, [])) := by
  rw [runSetBanner, if_neg h]
  rfl

theorem yes_eq (setting : Byte) : yes setting = decide (setting = 1) := rfl

theorem runBlank_of_held {s : State} {setting : Byte} (h : s.blank = decide (setting = 1)) :
    runBlank setting s = (s, some (.ok, [])) := by
  rw [runBlank, State.setBlank, yes_eq, if_pos h]

theorem runBlank_of_new {s : State} {setting : Byte} (h : s.blank ≠ decide (setting = 1)) :
    runBlank setting s =
      ((s.withOverlays s.bandHeight (decide (setting = 1)) s.remoteTest).composed s.view allTiles, some (.ok, [])) := by
  rw [runBlank, State.setBlank, yes_eq, if_neg h]
  rfl

/-- Panel test active changes exactly where the TEST key is not held and the flag is new (R7, R156). -/
theorem State.panelTest_withOverlays (s : State) (test : Bool) :
    (s.withOverlays s.bandHeight s.blank test).panelTest = s.panelTest ↔
      s.keys.test.held = true ∨ s.remoteTest = test := by
  have hflags (held old new : Bool) : (held || new) = (held || old) ↔ held = true ∨ old = new := by
    cases held <;> simp [eq_comm]
  exact hflags _ _ _

theorem runPanelTest_of_held {s : State} {setting : Byte}
    (h : s.keys.test.held = true ∨ s.remoteTest = decide (setting = 1)) :
    runPanelTest setting s = ({ s with remoteTest := decide (setting = 1) }, some (.ok, [])) :=
  congrArg (·, some (Status.ok, [])) (if_pos ((s.panelTest_withOverlays _).mpr h))

theorem runPanelTest_of_new {s : State} {setting : Byte}
    (h : ¬(s.keys.test.held = true ∨ s.remoteTest = decide (setting = 1))) :
    runPanelTest setting s =
      ((s.withOverlays s.bandHeight s.blank (decide (setting = 1))).composed s.view allTiles, some (.ok, [])) :=
  congrArg (·, some (Status.ok, [])) (if_neg (mt (s.panelTest_withOverlays _).mp h))

/-! ### The requests -/

section
variable {s : State} {p : PortId}

theorem exec_setBanner_of_held (hs : s.serves p) (hsup : s.supervisor = some p) (tag : Byte) {height : Byte}
    (hrange : within 1 2 height = true) (h : s.bandHeight = height.toNat) :
    exec (.setBanner p tag height) s = .next (s.reply p tag .setBanner (some (.ok, []))).finish :=
  takeDirect_unheard hs tag .setBanner rfl hrange (fun _ => hsup) (runSetBanner_of_held h) rfl rfl rfl

theorem exec_setBanner_of_new (hs : s.serves p) (hsup : s.supervisor = some p) (tag : Byte) {height : Byte}
    (hrange : within 1 2 height = true) (h : s.bandHeight ≠ height.toNat) :
    exec (.setBanner p tag height) s = .next (s.overlayRequest
      (s.withOverlays height.toNat s.blank s.remoteTest) bandTiles p tag .setBanner) :=
  takeDirect_overlayRequest hs tag .setBanner rfl hrange (fun _ => hsup) (runSetBanner_of_new h)

theorem exec_blank_of_held (hs : s.serves p) (hsup : s.supervisor = some p) (tag : Byte) {setting : Byte}
    (hrange : upTo 1 setting = true) (h : s.blank = decide (setting = 1)) :
    exec (.blank p tag setting) s = .next (s.reply p tag .blank (some (.ok, []))).finish :=
  takeDirect_unheard hs tag .blank rfl hrange (fun _ => hsup) (runBlank_of_held h) rfl rfl rfl

theorem exec_blank_of_new (hs : s.serves p) (hsup : s.supervisor = some p) (tag : Byte) {setting : Byte}
    (hrange : upTo 1 setting = true) (h : s.blank ≠ decide (setting = 1)) :
    exec (.blank p tag setting) s = .next (s.overlayRequest
      (s.withOverlays s.bandHeight (decide (setting = 1)) s.remoteTest) allTiles p tag .blank) :=
  takeDirect_overlayRequest hs tag .blank rfl hrange (fun _ => hsup) (runBlank_of_new h)

theorem exec_panelTest_of_held (hs : s.serves p) (hsup : s.supervisor = some p) (tag : Byte) {setting : Byte}
    (hrange : upTo 1 setting = true) (h : s.keys.test.held = true ∨ s.remoteTest = decide (setting = 1)) :
    exec (.panelTest p tag setting) s = .next (({ s with remoteTest := decide (setting = 1) } : State).reply p tag
      .panelTest (some (.ok, []))).finish :=
  takeDirect_unheard hs tag .panelTest rfl hrange (fun _ => hsup) (runPanelTest_of_held h) rfl
    ((s.panelTest_withOverlays _).mpr h) rfl

theorem exec_panelTest_of_new (hs : s.serves p) (hsup : s.supervisor = some p) (tag : Byte) {setting : Byte}
    (hrange : upTo 1 setting = true) (h : ¬(s.keys.test.held = true ∨ s.remoteTest = decide (setting = 1))) :
    exec (.panelTest p tag setting) s = .next (s.overlayRequest
      (s.withOverlays s.bandHeight s.blank (decide (setting = 1))) allTiles p tag .panelTest) :=
  takeDirect_overlayRequest hs tag .panelTest rfl hrange (fun _ => hsup) (runPanelTest_of_new h)

end

/-! ### The band's cells and the three requests together -/

/-- The cells of the band's rows while neither overlay stands over a banner. -/
theorem State.shows_of_band {s : State} (hheld : s.keys.test.held = false) (hremote : s.remoteTest = false)
    (hblank : s.blank = false) {b : Band} (hband : bandOf s.alerts s.bandHeight = some b) {row : Nat}
    (hrow : row < s.bandHeight) {col : Nat} {c : CellValue} (hc : b.cell row col = c) : s.shows row col c := by
  have htest : s.panelTest = false := by rw [State.panelTest, hheld, hremote]; rfl
  exact State.shows_of_selected ((State.selected_of_banner htest hblank hband hrow col).trans hc)

/-- Settles O48: the cells by what the band holds (`State.bandOf_bannerRecords`); a held value is work of which the
sounder hears nothing, a new one a composition event (`State.overlayRequest`). -/
theorem overlayRequests : Obligations.OverlayRequests := by
  unfold Obligations.OverlayRequests
  constructor
  · intro s row col hheld hremote hblank hshow hrow htwo _ hidden
    obtain ⟨b, hband, hheight, hcount, hrecords⟩ := State.bandOf_bannerRecords hshow
    have hrecord : b.rowRecord row = s.bannerRecords[row]? := hrecords row (by omega)
    have hshows {c : CellValue} (hc : b.cell row col = c) : s.shows row col c :=
      State.shows_of_band hheld hremote hblank hband hrow hc
    refine ⟨fun a ha hcol => hshows ?_, fun hempty => hshows ?_, fun hcol hlast hmore => hshows ?_⟩
    · exact (Band.cell_of_record (by omega) (hrecord.trans ha)).trans (alertCell_eq a hcol)
    · rcases hempty with ⟨hnone, hcol⟩ | rfl | ⟨hcol, hfield⟩
      · exact Band.cell_of_no_record hcol (hrecord.trans hnone)
      · exact Band.cell_of_gap
      · exact Band.cell_of_no_count hcol (by rwa [hheight, hcount])
    · rw [Band.cell_of_count hcol (hlast.trans hheight.symm), hcount, countGlyph_of_pos hmore]
  · intro s p tag hs hsup ok
    refine ⟨fun height hheight => ?_, fun setting hsetting => ?_⟩
    · have hrange : within 1 2 height = true := decide_eq_true (by omega)
      have hband (n : TileId) : bandRows n = true ↔ n ∈ bandTiles := by
        rw [mem_bandTiles, bandRows, decide_eq_true_iff]
      exact ⟨exec_setBanner_of_held hs hsup tag hrange, fun hnew => ⟨_,
        exec_setBanner_of_new hs hsup tag hrange hnew, State.answers_overlayRequest _ tag _ hs,
        State.drawnFrom_overlayRequest _ tag _ hs, State.redrawn_overlayRequest _ tag _ bandTiles_nodup hband⟩⟩
    · have hrange : upTo 1 setting = true := by rcases hsetting with rfl | rfl <;> rfl
      have hall (n : TileId) : (fun _ => true) n = true ↔ n ∈ allTiles := iff_of_true rfl (mem_allTiles n)
      refine ⟨exec_blank_of_held hs hsup tag hrange, fun hnew => ⟨_, exec_blank_of_new hs hsup tag hrange hnew,
        State.answers_overlayRequest _ tag _ hs, State.drawnFrom_overlayRequest _ tag _ hs,
        State.redrawn_overlayRequest _ tag _ allTiles_nodup hall⟩, exec_panelTest_of_held hs hsup tag hrange,
        fun hfree hnew => ?_⟩
      have hchange : ¬(s.keys.test.held = true ∨ s.remoteTest = decide (setting = 1)) :=
        fun h => h.elim (by simp [hfree]) hnew
      exact ⟨_, exec_panelTest_of_new hs hsup tag hrange hchange,
        State.answers_overlayRequest _ tag _ hs, State.listedFrom_overlayRequest _ tag _ hs,
        State.soundOk_overlayRequest _ tag _ (mt (s.panelTest_withOverlays _).mp hchange),
        State.keepsRecords_overlayRequest _ tag _, State.redrawn_overlayRequest _ tag _ allTiles_nodup hall⟩

end Sys2Proof.Machine
end

section
/-!
PROOF. What the sounder puts out and which source it chooses (O45): the frequency of a code (R134), the sound of an
entry (R135), the source that applies (R138) and what a choice of it does (R139, R140).
-/

namespace Sys2Proof.Machine

/-! ### The frequency of a code (R134) -/

theorem frequency_of_toNat {c : Byte} {n : Nat} (h : c.toNat = n) : frequency c = 128000 / (n + 64) := by
  rw [frequency, h]

/-- Higher codes give lower frequencies. -/
theorem frequency_lt {c d : Byte} (h : c.toNat < d.toNat) : frequency d < frequency c := by
  have hcast : (c.toNat : ℚ) < d.toNat := Nat.cast_lt.mpr h
  exact div_lt_div_of_pos_left (by norm_num) (by positivity) (by linarith)

/-- No two codes give the same frequency. -/
theorem frequency_injective : Function.Injective frequency := fun c d h => by
  rcases Nat.lt_trichotomy c.toNat d.toNat with hlt | heq | hgt
  · exact absurd h (frequency_lt hlt).ne'
  · exact BitVec.eq_of_toNat_eq heq
  · exact absurd h (frequency_lt hgt).ne

/-! ### The output (R135) -/

section
variable {t : ToneEntry} (period : Nat)

theorem ToneEntry.sound_of_silent (h : t.amplitude = 0) : t.sound period = .silence := if_pos h

theorem ToneEntry.sound_of_single (h : t.amplitude ≠ 0) (hs : t.secondary = none) :
    t.sound period = .one t.primary (levelDb t.amplitude) := by
  rw [ToneEntry.sound, if_neg h, hs]

theorem ToneEntry.sound_of_together {c : Byte} (h : t.amplitude ≠ 0) (hs : t.secondary = some c)
    (hm : t.mix = .together) : t.sound period = .two t.primary c (levelDb t.amplitude - 6) := by
  rw [ToneEntry.sound, if_neg h, hs, hm]

theorem ToneEntry.sound_of_alternate {c : Byte} (h : t.amplitude ≠ 0) (hs : t.secondary = some c)
    (hm : t.mix = .alternate) :
    t.sound period = .one (if period % 2 = 1 then t.primary else c) (levelDb t.amplitude) := by
  rw [ToneEntry.sound, if_neg h, hs, hm]

end

section
variable {s : State} {pt : Pattern}

/-- In an on period the output carries the entry's sound of that period. -/
theorem State.sounder_of_on (h : s.pattern = some pt) {k : Nat} (hp : pt.phase = .on k) :
    s.sounder = s.tones[pt.entry].sound (pt.completed + 1) := by
  simp only [State.sounder, h, hp]

/-- Outside an on period the output is silence. -/
theorem State.sounder_of_not_on (h : s.pattern = some pt) (hp : ∀ k, pt.phase ≠ .on k) : s.sounder = .silence := by
  cases hphase : pt.phase with
  | on k => exact absurd hphase (hp k)
  | off _ => simp only [State.sounder, h, hphase]
  | ended => simp only [State.sounder, h, hphase]

end

/-! ### The source that applies (R138) -/

theorem Alert.candidate_eq (a : Alert) :
    a.candidate = decide (a.state = .activeUnack ∧ a.silenced = false ∧ a.shelved = none) := by
  rw [Alert.candidate, Bool.eq_iff_iff]
  simp only [Bool.and_eq_true, Bool.not_eq_true', decide_eq_true_eq, Option.isNone_iff_eq_none, and_assoc]

/-- The sounding alert is the first candidate in selection order. -/
theorem soundingAlert_eq (l : List Alert) : soundingAlert l = (ranked (l.filter fun a =>
    decide (a.state = .activeUnack ∧ a.silenced = false ∧ a.shelved = none))).head? := by
  rw [soundingAlert, ranked_eq_bySeverity, ← funext Alert.candidate_eq]

section
variable {s : State}

theorem State.selectSource_of_test (h : s.panelTest = true) : s.selectSource = some (.test, 4) := if_pos h

theorem State.selectSource_of_alert (h : s.panelTest = false) {a : Alert} (ha : soundingAlert s.alerts = some a) :
    s.selectSource = some (.alert a.source a.code, a.entry) := by
  simp only [State.selectSource, h, ha, Bool.false_eq_true, if_false]

theorem State.selectSource_of_chimes (h : s.panelTest = false) (ha : soundingAlert s.alerts = none) :
    s.selectSource = s.chimes.head?.map fun c => (.chime, c) := by
  simp only [State.selectSource, h, ha, Bool.false_eq_true, if_false]
  cases s.chimes <;> rfl

/-! ### The choice of the source (R139, R140) -/

/-- Where no source applies there is no pattern. -/
theorem State.chooseSource_of_none (h : s.selectSource = none) : s.chooseSource = { s with pattern := none } := by
  simp only [State.chooseSource, h]

/-- The pattern of a source and entry that apply goes on. -/
theorem State.chooseSource_of_same {pt : Pattern} (h : s.selectSource = some (pt.source, pt.entry))
    (hp : s.pattern = some pt) : s.chooseSource = s := by
  simp only [State.chooseSource, h, hp, if_true]

/-- Another source or entry starts its pattern, and a playing chime that another source overtakes leaves the queue. -/
theorem State.chooseSource_of_new {src : SoundSource} {entry : ToneId} (h : s.selectSource = some (src, entry))
    (hp : ∀ pt, s.pattern = some pt → pt.source ≠ src ∨ pt.entry ≠ entry) : s.chooseSource = { s with
      chimes := if s.pattern.map Pattern.source = some .chime ∧ src ≠ .chime then s.chimes.tail else s.chimes
      pattern := some ⟨src, entry, .on s.tones[entry].onTicks, 0⟩ } := by
  rw [State.chooseSource, h]
  cases hpt : s.pattern with
  | none => rfl
  | some pt =>
    by_cases hsource : pt.source = src
    · subst hsource
      have hentry : pt.entry ≠ entry := (hp pt hpt).resolve_left fun h => h rfl
      simp [hentry, State.startPattern]
    · by_cases hchime : pt.source = .chime
      · have hother : src ≠ .chime := fun h => hsource (hchime.trans h.symm)
        simp [hchime, hother, hother.symm, State.startPattern]
      · simp [hsource, hchime, State.startPattern]

end

/-- Settles O45: the frequencies by the order of the codes, the output by the pattern's phase and its entry, the source
by the cases of R138, and the choice by whether the pattern already plays it. -/
theorem codesGiveFrequencies : Obligations.CodesGiveFrequencies := by
  unfold Obligations.CodesGiveFrequencies
  refine ⟨fun _ => rfl, fun _ _ => frequency_lt, fun _ _ h => frequency_injective h,
    (frequency_of_toNat (n := 0) rfl).trans (by norm_num), (frequency_of_toNat (n := 64) rfl).trans (by norm_num),
    (frequency_of_toNat (n := 96) rfl).trans (by norm_num), (frequency_of_toNat (n := 136) rfl).trans (by norm_num),
    (frequency_of_toNat (n := 192) rfl).trans (by norm_num), (frequency_of_toNat (n := 255) rfl).trans (by norm_num),
    fun s => ⟨State.sounder_of_no_pattern, fun pt hp => ?_⟩, fun s => ?_⟩
  · intro e level
    refine ⟨fun k hk => ?_, State.sounder_of_not_on hp⟩
    rw [State.sounder_of_on hp hk]
    exact ⟨ToneEntry.sound_of_silent _, ToneEntry.sound_of_single _, fun c => ToneEntry.sound_of_together _,
      fun c => ToneEntry.sound_of_alternate _⟩
  · intro candidates
    have hsounding : soundingAlert s.alerts = candidates.head? := soundingAlert_eq s.alerts
    refine ⟨fun h => State.selectSource_of_test (s.panelTest_iff.mpr h), fun hheld hremote => ?_,
      State.chooseSource_of_none, fun src entry hsrc =>
        ⟨fun pt hp hsource hentry => ?_, State.chooseSource_of_new hsrc⟩⟩
    · have htest : s.panelTest = false := by rw [State.panelTest, hheld, hremote]; rfl
      refine ⟨fun a l hcand => ?_, fun hcand => ?_⟩
      · rw [State.selectSource_of_alert htest (hsounding.trans (by rw [hcand]; rfl)), Alert.entry]
        cases a.severity <;> rfl
      · exact State.selectSource_of_chimes htest (hsounding.trans (by rw [hcand]; rfl))
    · exact State.chooseSource_of_same (by rw [hsrc, hsource, hentry]) hp

end Sys2Proof.Machine
end

section
/-!
PROOF. SET_TONE and CHIME (O47): the entry replaced with the pattern that plays it restarted (R137), and a chime that
joins the queue (R145, R146).
-/

namespace Sys2Proof.Machine

/-! ### SET_TONE (R137) -/

theorem toneEntryOf_eq (primary present secondary mix amplitude onTicks offTicks repeats : Byte) :
    toneEntryOf primary present secondary mix amplitude onTicks offTicks repeats =
      ⟨primary, if present = 1 then some secondary else none, if mix = 1 then .alternate else .together,
        amplitude.toNat, onTicks.toNat, offTicks.toNat, repeats.toNat⟩ := by
  simp only [toneEntryOf, yes_eq, decide_eq_true_eq]

/-- The entry is replaced, and a pattern that plays it starts again from its first on period. -/
theorem State.setTone_eq (s : State) (entry : ToneId) (t : ToneEntry) : s.setTone entry t = { s with
    tones := s.tones.set entry t
    pattern := s.pattern.map fun q => if q.entry = entry then ⟨q.source, q.entry, .on t.onTicks, 0⟩ else q } := by
  unfold State.setTone
  cases hp : s.pattern with
  | none => rfl
  | some pt =>
    by_cases he : pt.entry = entry
    · simp [he, State.startPattern]
    · simp [he]

/-- A SET_TONE that its port may make. -/
theorem exec_setTone {s : State} {p : PortId} (hs : s.serves p) (hsup : s.supervisor = some p)
    (tag primary secondary offTicks repeats : Byte) {entry present mix amplitude onTicks : Byte}
    (hrange : setToneOk entry present mix amplitude onTicks = true) :
    exec (.setTone p tag entry primary present secondary mix amplitude onTicks offTicks repeats) s =
      .next ((s.setTone (toneOf entry) (toneEntryOf primary present secondary mix amplitude onTicks offTicks
        repeats)).reply p tag .setTone (some (.ok, []))).finish :=
  takeDirect_unheard hs tag .setTone rfl hrange (fun _ => hsup) rfl (by rw [State.setTone_eq])
    (by rw [State.setTone_eq]; rfl) (by rw [State.setTone_eq])

/-! ### A chime joins the queue (R145, R146) -/

section
variable {s : State} {tone : ToneId}

/-- The state with one more chime at the end of the queue. -/
def State.joined (s : State) (tone : ToneId) : State := { s with chimes := s.chimes ++ [tone] }

/-- The source that applies goes on to apply when a chime joins the queue, and where none did it is that chime. -/
theorem State.selectSource_joined (s : State) (tone : ToneId) :
    (s.joined tone).selectSource = s.selectSource.or (some (.chime, tone)) := by
  by_cases htest : s.panelTest = true
  · rw [State.selectSource_of_test htest, State.selectSource_of_test (s := s.joined tone) htest, Option.some_or]
  · rw [Bool.not_eq_true] at htest
    cases ha : soundingAlert s.alerts with
    | some a =>
      rw [State.selectSource_of_alert htest ha, State.selectSource_of_alert (s := s.joined tone) htest ha,
        Option.some_or]
    | none =>
      rw [State.selectSource_of_chimes htest ha, State.selectSource_of_chimes (s := s.joined tone) htest ha]
      cases hc : s.chimes <;> simp [State.joined, hc]

/-- A chime that joins the queue plays at once where nothing plays. -/
theorem State.heardSince_joined (h : s.soundOk = true) : s.heardSince (s.joined tone) = { s with
    chimes := s.chimes ++ [tone]
    pattern := if s.pattern = none then some ⟨.chime, tone, .on s.tones[tone].onTicks, 0⟩ else s.pattern } := by
  have hplays : s.pattern.map (fun pt => (pt.source, pt.entry)) = s.selectSource := of_decide_eq_true h
  have hchoose : s.heardSince (s.joined tone) = (s.joined tone).chooseSource :=
    if_neg fun hsame => absurd hsame.2.2 (by simp [State.joined])
  have hselect := s.selectSource_joined tone
  rw [hchoose]
  cases hp : s.pattern with
  | none =>
    rw [← hplays, hp] at hselect
    rw [State.chooseSource_of_new hselect fun pt hpt => absurd (hp.symm.trans hpt) (by simp)]
    simp [State.joined, hp]
  | some pt =>
    rw [← hplays, hp] at hselect
    rw [State.chooseSource_of_same hselect hp, if_neg (by simp), ← hp]
    rfl

end

/-! ### CHIME (R146) -/

theorem runChime_of_endless {s : State} {tone : Byte} (h : s.tones[toneOf tone].repeats = 0) :
    runChime tone s = (s, some (.badValue, [])) := if_pos h

theorem runChime_of_full {s : State} {tone : Byte} (h : s.tones[toneOf tone].repeats ≠ 0) (hf : 4 ≤ s.chimes.length) :
    runChime tone s = (s, some (.full, [])) := (if_neg h).trans (if_pos hf)

theorem runChime_of_room {s : State} {tone : Byte} (h : s.tones[toneOf tone].repeats ≠ 0) (hf : s.chimes.length < 4) :
    runChime tone s = (s.joined (toneOf tone), some (.ok, [])) := (if_neg h).trans (if_neg hf.not_ge)

/-- Settles O47: SET_TONE is work of which the sounder hears nothing; CHIME is refused by its block, or joins the queue
and has the source chosen. -/
theorem sounderRequests : Obligations.SounderRequests := by
  unfold Obligations.SounderRequests
  refine ⟨fun s p tag entry primary present secondary mix amplitude onTicks offTicks repeats hs hsup hrange => ?_,
    fun s p tag tone hs hlow hhigh => ?_⟩
  · rw [exec_setTone hs hsup tag primary secondary offTicks repeats hrange, State.setTone_eq, toneEntryOf_eq]
    rfl
  · have hrange : within 1 7 tone = true := decide_eq_true ⟨hlow, hhigh⟩
    have hany : false = true → s.supervisor = some p := fun h => Bool.noConfusion h
    refine ⟨fun h => ?_, fun h hfull => ?_, fun h hroom hok => ?_⟩
    · exact takeDirect_refused hs tag .chime rfl hrange hany (runChime_of_endless h)
    · exact takeDirect_refused hs tag .chime rfl hrange hany (runChime_of_full h hfull)
    · have hadmitted := takeDirect_admitted hs tag .chime true (within 1 7 tone) false (runChime tone) rfl hrange hany
      rw [runChime_of_room h hroom, State.heardSince_joined hok] at hadmitted
      exact hadmitted

end Sys2Proof.Machine
end

section
/-!
PROOF. Silencing and the picture: a record that is only silenced shows the same cells (R121 to R125), and the drive's
answer to an event depends on the records through the picture alone (R61, R62).
-/

namespace Sys2Proof.Machine

/-! ### A band of silenced records (R121 to R126) -/

/-- The change sets the silenced field of a record, and leaves every other. -/
def SilencesOnly (f : Alert → Alert) : Prop := ∀ a, f a = { a with silenced := (f a).silenced }

/-- The band whose records are `f` of what they were. -/
def Band.mapRecords (f : Alert → Alert) (b : Band) : Band :=
  { b with
    first := f b.first
    second := b.second.map f }

section
variable {f : Alert → Alert} (hf : SilencesOnly f)
include hf

theorem SilencesOnly.eligible (a : Alert) : (f a).eligible = a.eligible := by
  rw [hf a]
  rfl

theorem SilencesOnly.severity (a : Alert) : (f a).severity = a.severity := by
  rw [hf a]

theorem SilencesOnly.isFor (src : Source) (code : Byte) (a : Alert) : (f a).isFor src code = a.isFor src code := by
  rw [hf a]
  rfl

theorem SilencesOnly.alertCell_eq (a : Alert) (col : Nat) : alertCell (f a) col = alertCell a col := by
  rw [hf a]
  rfl

theorem SilencesOnly.any_eligible (l : List Alert) : (l.map f).any Alert.eligible = l.any Alert.eligible := by
  rw [List.any_map]
  exact congrArg l.any (funext hf.eligible)

theorem SilencesOnly.selection_map (l : List Alert) : selection (l.map f) = (selection l).map f := by
  have hof (v : Severity) (m : List Alert) : ofSeverity v (m.map f) = (ofSeverity v m).map f := by
    rw [ofSeverity, List.filter_map, ofSeverity]
    exact congrArg (fun p => (m.filter p).map f) (funext fun a => by rw [Function.comp, hf.severity])
  rw [selection, List.filter_map, funext (f := Alert.eligible ∘ f) hf.eligible, selection]
  simp only [bySeverity, hof, List.map_append]

theorem SilencesOnly.bandOf_map (l : List Alert) (height : Nat) :
    bandOf (l.map f) height = (bandOf l height).map (Band.mapRecords f) := by
  rw [bandOf, hf.selection_map, bandOf]
  cases selection l with
  | nil => rfl
  | cons a rest => simp [Band.mapRecords]

theorem SilencesOnly.band_cell (b : Band) (row col : Nat) : (b.mapRecords f).cell row col = b.cell row col := by
  have hrecord : (b.mapRecords f).rowRecord row = (b.rowRecord row).map f := by
    unfold Band.rowRecord
    split_ifs <;> rfl
  rw [Band.cell, hrecord, Band.cell]
  cases b.rowRecord row with
  | none => rfl
  | some a => simp only [Option.map_some, hf.alertCell_eq]; rfl

end

/-! ### Two states of one picture -/

/-- The two states compose every tile alike, and give every tile the same class but for its own state. -/
def State.pictured (s u : State) : Prop :=
  (∀ n : TileId, u.view.tile n = s.view.tile n) ∧ u.bannerComposed = s.bannerComposed ∧ u.bandHeight = s.bandHeight

theorem State.pictured.symm {s u : State} (h : s.pictured u) : u.pictured s :=
  ⟨fun n => (h.1 n).symm, h.2.1.symm, h.2.2.symm⟩

theorem State.pictured.trans {s t u : State} (h₁ : s.pictured t) (h₂ : t.pictured u) : s.pictured u :=
  ⟨fun n => (h₂.1 n).trans (h₁.1 n), h₂.2.1.trans h₁.2.1, h₂.2.2.trans h₁.2.2⟩

theorem State.alike.pictured {s u : State} (h : s.alike u) : s.pictured u :=
  ⟨fun n => by rw [h.1], h.2.1, h.2.2⟩

/-- Silencing records leaves the picture. -/
theorem State.pictured_of_silenced {s : State} {f : Alert → Alert} (hf : SilencesOnly f) :
    s.pictured { s with alerts := s.alerts.map f } := by
  refine ⟨fun n => View.tile_congr fun k _ => ?_, ?_, rfl⟩
  · have hband : ({ s with alerts := s.alerts.map f } : State).view.band = s.view.band.map (Band.mapRecords f) :=
      hf.bandOf_map s.alerts s.bandHeight
    have hselected : ({ s with alerts := s.alerts.map f } : State).view.selected (tileRow n) (tileCol n + k) =
        s.view.selected (tileRow n) (tileCol n + k) := by
      unfold View.selected
      rw [hband]
      cases s.view.band with
      | none => rfl
      | some b => simp only [Option.map_some, hf.band_cell]; rfl
    exact congrArg (blinked s.time.phase) hselected
  · simp only [State.bannerComposed, State.bannerShowing, State.panelTest, hf.any_eligible]

/-! ### What depends on the picture alone -/

theorem State.pictured.tileClass {s u : State} (h : s.pictured u) (ht : u.tiles = s.tiles) (n : TileId) :
    u.tileClass n = s.tileClass n := by
  unfold State.tileClass
  rw [h.2.1, h.2.2, ht]

/-- An event that leaves the picture reports no tile. -/
theorem State.pictured.reportedTiles {s t : State} (h : s.pictured t) (touched : TileId → Bool) :
    s.reportedTiles t touched = s.tiles := by
  refine Vector.ext fun i hi => ?_
  simp [State.reportedTiles, h.1]

/-- The reports compare the two pictures alone. -/
theorem State.pictured.reportedTiles_left {s u : State} (h : s.pictured u) (ht : u.tiles = s.tiles)
    (hp : u.panel = s.panel) (hn : u.now = s.now) (t : State) (touched : TileId → Bool) :
    u.reportedTiles t touched = s.reportedTiles t touched := by
  unfold State.reportedTiles
  simp only [h.1, ht, hp, hn]

/-- A handing depends on the picture, the engines and the tiles alone. -/
theorem State.handedTile.of_pictured {s t u : State} (h : s.handedTile t) (hpic : s.pictured u)
    (he : u.engines = s.engines) (ht : u.tiles = s.tiles) :
    u.handedTile { u with engines := t.engines, tiles := t.tiles } ∧
      t.pictured { u with engines := t.engines, tiles := t.tiles } := by
  obtain ⟨e, n, a, hfree, hfirst, ⟨hsince, hleast⟩, rfl⟩ := h
  refine ⟨⟨e, n, a, by rwa [he], fun d hd => by rw [he]; exact hfirst d hd, ⟨by rwa [ht], fun m b hm hb => ?_⟩, ?_⟩,
    hpic⟩
  · rw [hpic.tileClass ht, hpic.tileClass ht]
    exact hleast m b hm (by rwa [← ht])
  · simp only [State.jobFor, hpic.1, he, ht]

/-- The arbiter's handings depend on the picture, the engines and the tiles alone. -/
theorem State.arbitered.of_pictured {s t u : State} (h : s.arbitered t) (hpic : s.pictured u)
    (he : u.engines = s.engines) (ht : u.tiles = s.tiles) : u.arbitered t := by
  obtain ⟨v, hrun, htaken, hengines, htiles⟩ := h
  have key : Relation.ReflTransGen State.handedTile u { u with engines := v.engines, tiles := v.tiles } ∧
      v.pictured { u with engines := v.engines, tiles := v.tiles } := by
    clear htaken hengines htiles
    induction hrun with
    | refl =>
      rw [← he, ← ht]
      exact ⟨.refl, hpic⟩
    | tail _ hstep ih =>
      obtain ⟨hone, hpic'⟩ := hstep.of_pictured ih.2 rfl rfl
      exact ⟨ih.1.tail hone, hpic'⟩
  exact ⟨_, key.1, htaken, hengines, htiles⟩

/-- The drive's answer depends on the picture of the event, and on no record of it. -/
theorem State.driveFollows.of_pictured {s t : State} {l : List Alert} (h : s.driveFollows t)
    (hpic : s.pictured { s with alerts := l }) : ({ s with alerts := l } : State).driveFollows t := by
  have hreports : ({ s with alerts := l } : State).reportedTiles t bandRows = s.reportedTiles t bandRows :=
    hpic.reportedTiles_left rfl rfl rfl t bandRows
  have hrail : ({ s with alerts := l } : State).rail = s.rail := rfl
  unfold State.driveFollows at h ⊢
  rw [hreports, hrail]
  cases hr : s.rail.state with
  | on x =>
    rw [hr] at h
    exact ⟨h.1.of_pictured hpic rfl rfl, h.2⟩
  | _ =>
    rw [hr] at h
    exact h

/-- So do the drive's answer and the waits that the event's reports end. -/
theorem State.drives.of_pictured {s t : State} {l m : List Alert} {ts : Vector TileRec 40} (h : s.drives t l ts)
    (hpic : ({ t with alerts := l } : State).pictured { t with alerts := m }) : s.drives t m ts := by
  have hundriven : (s.undriven t l ts).pictured (s.undriven t m ts) := hpic
  refine ⟨h.1.of_pictured (l := m) hundriven, h.2.congr (fun _ => rfl) (fun _ => rfl) rfl fun _ w => ?_⟩
  unfold State.reportsEnd
  rw [hundriven.reportedTiles_left rfl rfl rfl]

end Sys2Proof.Machine
end

section
/-!
PROOF. PERIOD_END (O46): the next period (R142), and the end of a finite pattern by its source (R143).
-/

namespace Sys2Proof.Machine

/-! ### The choice at the end of the event (R139) -/

/-- A choice is the one after an event that has changed the chime queue. -/
theorem State.chooseSource_eq_heardSince (s : State) :
    s.chooseSource = ({ s with chimes := 0 :: s.chimes } : State).heardSince s :=
  (if_neg fun hsame => List.cons_ne_self 0 s.chimes hsame.2.2.symm).symm

/-- An event that ends with a choice has nothing left to choose. -/
theorem State.heardSince_chooseSource (b s : State) : b.heardSince s.chooseSource = s.chooseSource := by
  unfold State.heardSince
  split_ifs
  · rfl
  · exact s.chooseSource_chooseSource

/-! ### The periods (R142) -/

theorem ToneEntry.reached_of_more {t : ToneEntry} {n : Nat} (h : t.repeats = 0 ∨ n ≠ t.repeats) :
    ¬t.reached n = true := fun hr => by
  obtain ⟨hfinite, hplayed⟩ := of_decide_eq_true hr
  exact h.elim hfinite fun hne => hne hplayed

theorem ToneEntry.reached_of_played {t : ToneEntry} {n : Nat} (h : t.repeats ≠ 0) (hn : n = t.repeats) :
    t.reached n = true := decide_eq_true ⟨h, hn⟩

section
variable {s : State} {pt : Pattern}

/-- At the end of an on period without an off period the next on period begins, unless the repeats are played. -/
theorem State.endPeriod_of_on (h : s.pattern = some pt) (hp : pt.phase = .on 0) : s.endPeriod =
    if s.tones[pt.entry].offTicks ≠ 0 then s.setPattern { pt with
      completed := (pt.completed + 1) % 256
      phase := .off s.tones[pt.entry].offTicks }
    else if s.tones[pt.entry].reached ((pt.completed + 1) % 256) then
      s.endPattern { pt with completed := (pt.completed + 1) % 256 }
    else s.setPattern { pt with
      completed := (pt.completed + 1) % 256
      phase := .on s.tones[pt.entry].onTicks } := by
  simp only [State.endPeriod, h, hp]

theorem State.endPeriod_of_off (h : s.pattern = some pt) (hp : pt.phase = .off 0) : s.endPeriod =
    if s.tones[pt.entry].reached pt.completed then s.endPattern pt
    else s.setPattern { pt with phase := .on s.tones[pt.entry].onTicks } := by
  simp only [State.endPeriod, h, hp]

end

/-- A PERIOD_END that changes the pattern record alone. -/
theorem exec_periodEnd_of_pattern {s : State} {q : Pattern} (h : s.endPeriod = s.setPattern q) :
    exec .periodEnd s = .next (s.setPattern q).finish := by
  have hwhole : s.whole State.endPeriod = (s.setPattern q).finish := by
    rw [State.whole, h, State.heardSince_of_same (b := s) (s := s.setPattern q) rfl rfl rfl]
  exact congrArg Host.Outcome.next hwhole

/-! ### The end of a chime's pattern (R143) -/

/-- The next chime plays, where nothing comes before the queue. -/
theorem State.dropChime_chooseSource {s : State} (ht : s.panelTest = false) (ha : soundingAlert s.alerts = none) :
    s.dropChime.chooseSource = { s with
      chimes := s.chimes.tail
      pattern := s.chimes.tail.head?.map fun e => ⟨.chime, e, .on s.tones[e].onTicks, 0⟩ } := by
  have hselect : s.dropChime.selectSource = s.chimes.tail.head?.map fun c => (.chime, c) :=
    State.selectSource_of_chimes (s := s.dropChime) ht ha
  cases hnext : s.chimes.tail.head? with
  | none =>
    rw [hnext] at hselect
    exact State.chooseSource_of_none hselect
  | some e =>
    rw [hnext] at hselect
    exact State.chooseSource_of_new hselect fun pt hpt => absurd hpt (by simp [State.dropChime])

/-! ### The end of an alert's pattern (R106, R118, R143) -/

/-- The record after its finite pattern has ended: silenced, if it is ACTIVE_UNACK. -/
def Alert.ended (src : Source) (code : Byte) (a : Alert) : Alert :=
  if a.source = src ∧ a.code = code ∧ a.state = .activeUnack then { a with silenced := true } else a

theorem Alert.silencesOnly_ended (src : Source) (code : Byte) : SilencesOnly (Alert.ended src code) := fun a => by
  unfold Alert.ended
  split_ifs <;> rfl

theorem State.silenceEnded_alerts (s : State) (src : Source) (code : Byte) :
    (s.silenceEnded src code).alerts = s.alerts.map (Alert.ended src code) := by
  refine List.map_congr_left fun a _ => ?_
  unfold Alert.ended
  by_cases hfor : a.isFor src code = true
  · obtain ⟨hsource, hcode⟩ := isFor_iff.mp hfor
    simp only [hfor, hsource, hcode, true_and, if_true]
  · rw [if_neg hfor, if_neg fun h => hfor (isFor_iff.mpr ⟨h.1, h.2.1⟩)]

section
variable (s : State) (src : Source) (code : Byte)

/-- The state without a pattern. -/
def State.stopped : State := { s with pattern := none }

/-- The record silenced, and the banner's tiles reported (R127). -/
def State.alertSilenced : State := s.stopped.listChange (State.silenceEnded src code)

/-- So, and the drive's answer. -/
def State.alertEnded : State := (s.alertSilenced src code).driveReact

theorem State.alertSilenced_alerts : (s.alertSilenced src code).alerts = s.alerts.map (Alert.ended src code) :=
  State.silenceEnded_alerts s.stopped src code

/-- Silencing leaves the picture. -/
theorem State.pictured_alertSilenced : s.pictured (s.alertSilenced src code) := by
  have h := State.pictured_of_silenced (s := s) (Alert.silencesOnly_ended src code)
  rwa [← s.alertSilenced_alerts src code] at h

/-- So its reports leave every tile. -/
theorem State.alertSilenced_tiles : (s.alertSilenced src code).tiles = s.tiles := by
  have htiles := State.compositorEvent_tiles (s := s) (u := s.stopped.silenceEnded src code) (f := bandRows)
    bandTiles_nodup (fun n => by rw [mem_bandTiles, bandRows, decide_eq_true_iff]) rfl rfl rfl
  exact htiles.trans ((s.pictured_alertSilenced src code).reportedTiles bandRows)

/-- Each record is silenced as it should be, but for DRIVE_FAULT's clearing where the rail reaches ON. -/
theorem State.recordsBecome_alertEnded : s.recordsBecome (s.alertEnded src code) (Alert.ended src code) := by
  have halerts := s.alertSilenced_alerts src code
  have hrises : (s.alertSilenced src code).risesAtOnce ↔ s.risesAtOnce := Iff.rfl
  refine ⟨fun src' code' h => ?_, fun h => ?_⟩
  · have hrecord : (s.alertSilenced src code).record src' code' =
        (s.record src' code').map (Alert.ended src code) := by
      rw [State.record, halerts, List.find?_map, State.record]
      exact congrArg (fun p => (s.alerts.find? p).map _)
        (funext ((Alert.silencesOnly_ended src code).isFor src' code'))
    exact ((s.alertSilenced src code).driveReact_record src' code' h).trans hrecord
  · exact (((s.alertSilenced src code).drawnTo_driveReact.plain fun hr => h hr.1).1).trans halerts

/-- The banner's tiles are reported, and the drive answers. -/
theorem State.redrawn_alertEnded : s.redrawn (s.alertEnded src code) bandRows := by
  have htiles := s.alertSilenced_tiles src code
  have hwaits : s.waitsFollow (s.alertSilenced src code) fun _ w =>
      w.settles s.tiles (s.alertSilenced src code).tiles :=
    ((s.stopped.silenceEnded src code).compositorEvent_waits s.stopped.view bandTiles).congr (fun _ => rfl)
      (fun _ => rfl) rfl fun _ _ => Iff.rfl
  have hdrives := State.drives_driveReact (s := s) (c := s.alertSilenced src code) rfl rfl rfl hwaits
  have hsilenced : ({ s.alertEnded src code with alerts := s.alerts } : State).pictured
      { s.alertEnded src code with alerts := (s.alertSilenced src code).alerts } := by
    rw [State.alertSilenced_alerts]
    exact State.pictured_of_silenced (s := { s.alertEnded src code with alerts := s.alerts })
      (Alert.silencesOnly_ended src code)
  have hstands : s.pictured { s.alertEnded src code with alerts := s.alerts } :=
    ((s.pictured_alertSilenced src code).trans
      (State.alike_drawn (s.alertSilenced src code).drawnTo_driveReact).symm.pictured).trans hsilenced.symm
  have h := hdrives.of_pictured hsilenced.symm
  rwa [htiles, ← hstands.reportedTiles bandRows] at h

/-- No notice is handed but DRIVE_FAULT's. -/
theorem State.listedTo_alertEnded : s.stopped.listedTo [] (s.alertEnded src code) :=
  (State.listedTo_listChange (listOnly_silenceEnded src code) (State.handed_of_ports rfl)).then
    (State.drawnTo_driveReact _)

/-- The choice after an alert's pattern is made from no pattern. -/
theorem State.hears_alertEnded : s.stopped.hears (s.alertEnded src code).chooseSource := by
  obtain ⟨hchimes, hpattern, htest, htones⟩ := (s.alertSilenced src code).driveReact_sounder
  have hchoice := State.chooseSource_congr (s := s.alertEnded src code)
    (u := { s.stopped with alerts := (s.alertEnded src code).chooseSource.alerts }) (State.chooseSource_alerts _)
    htest.symm hchimes.symm hpattern.symm htones.symm
  exact ⟨hchoice.1.symm, hchoice.2.symm⟩

theorem State.endPattern_of_alert {q : Pattern} (h : q.source = .alert src code) :
    s.endPattern q = (s.alertEnded src code).chooseSource := by
  simp only [State.endPattern, h]
  rfl

/-- What the end of an alert's pattern leaves, taken whole. -/
def State.alertEndTaken : State := (s.alertEnded src code).chooseSource.finish

/-- What the end of an alert's pattern comes to: the record silenced, the source chosen again, no notice, and the
picture. -/
theorem State.alertEndTaken_effects :
    s.recordsBecome (s.alertEndTaken src code) (Alert.ended src code) ∧ (s.alertEndTaken src code).soundOk = true ∧
      s.stopped.listedFrom s [] (s.alertEndTaken src code) ∧ s.redrawn (s.alertEndTaken src code) bandRows := by
  have hheard := State.chooseSource_eq_heardSince (s.alertEnded src code)
  refine ⟨(s.recordsBecome_alertEnded src code).of_alerts (State.chooseSource_alerts _),
    State.soundOk_chooseSource _, ⟨_, ?_, fun _ => s.hears_alertEnded src code, rfl⟩, ?_⟩
  · rw [hheard]
    exact (s.listedTo_alertEnded src code).heard _
  · rw [State.alertEndTaken, hheard]
    exact ((s.redrawn_alertEnded src code).heardSince _).finish

end

/-! ### The end of a finite pattern by its source (R143) -/

/-- What a PERIOD_END comes to that ends the finite pattern `q`. -/
theorem exec_periodEnd_of_end {s : State} {q : Pattern} (h : s.endPeriod = s.endPattern q) :
    (q.source = .test → exec .periodEnd s = .next (s.setPattern { q with phase := .ended }).finish) ∧
    (q.source = .chime → s.panelTest = false → soundingAlert s.alerts = none →
      exec .periodEnd s = .next ({ s with
        chimes := s.chimes.tail
        pattern := s.chimes.tail.head?.map fun e => ⟨.chime, e, .on s.tones[e].onTicks, 0⟩ } : State).finish) ∧
    ∀ src code, q.source = .alert src code → exec .periodEnd s = .next (s.alertEndTaken src code) := by
  have hexec : exec .periodEnd s = .next (s.heardSince s.endPeriod).finish := rfl
  refine ⟨fun hq => exec_periodEnd_of_pattern (h.trans ?_), fun hq ht ha => ?_, fun src code hq => ?_⟩
  · simp only [State.endPattern, hq]
  · have hend : s.endPattern q = s.dropChime.chooseSource := by simp only [State.endPattern, hq]
    rw [hexec, h, hend, State.heardSince_chooseSource, State.dropChime_chooseSource ht ha]
  · rw [hexec, h, s.endPattern_of_alert src code hq, State.heardSince_chooseSource, State.alertEndTaken]

/-- Settles O46: a period's end goes on to the next period or ends the finite pattern, and an end is told by the
pattern's source (`exec_periodEnd_of_end`, `State.alertEndTaken_effects`). -/
theorem periodEndEffects : Obligations.PeriodEndEffects := by
  unfold Obligations.PeriodEndEffects
  intro s pt hpt t goes ends n
  have hends {q : Pattern} (hsource : q.source = pt.source) (h : s.endPeriod = s.endPattern q) : ends q := by
    obtain ⟨htest, hchime, halert⟩ := exec_periodEnd_of_end h
    exact ⟨fun hp => htest (hsource.trans hp), fun hp => hchime (hsource.trans hp), fun src code hp =>
      ⟨_, halert src code (hsource.trans hp), s.alertEndTaken_effects src code⟩⟩
  refine ⟨fun hphase => ⟨fun hoff => ?_, fun hoff hmore => ?_, fun hoff hfinite hplayed => ?_⟩,
    fun hphase => ⟨fun hmore => ?_, fun hfinite hplayed => ?_⟩⟩
  · refine exec_periodEnd_of_pattern ?_
    rw [State.endPeriod_of_on hpt hphase, if_pos hoff]
  · refine exec_periodEnd_of_pattern ?_
    rw [State.endPeriod_of_on hpt hphase, if_neg (not_not_intro hoff), if_neg (ToneEntry.reached_of_more hmore)]
  · refine hends rfl ?_
    rw [State.endPeriod_of_on hpt hphase, if_neg (not_not_intro hoff),
      if_pos (ToneEntry.reached_of_played hfinite hplayed)]
  · refine exec_periodEnd_of_pattern ?_
    rw [State.endPeriod_of_off hpt hphase, if_neg (ToneEntry.reached_of_more hmore)]
  · refine hends rfl ?_
    rw [State.endPeriod_of_off hpt hphase, if_pos (ToneEntry.reached_of_played hfinite hplayed)]

end Sys2Proof.Machine
end

section
/-!
PROOF. ACK_PRESS (O49): a change of the ACK record or of the hold beside a list event, the first record of the banner
(R122), and its acknowledgement (R153).
-/

namespace Sys2Proof.Machine

/-! ### A list event beside the ACK record and the hold -/

/-- The state with this ACK record, these hold ticks and this mark of a due hold (R150; log 2). -/
def State.withAck (k : KeyRecord) (ticks : Nat) (due : Bool) (s : State) : State :=
  { s with keys := { s.keys with
    ack := k
    holdTicks := ticks
    holdDue := due } }

/-- The picture, the waits and the drive's answer read nothing of the ACK record or the hold. -/
theorem State.relisted.of_withAck {s t : State} {k : KeyRecord} {ticks : Nat} {due : Bool}
    (h : (s.withAck k ticks due).relisted t) : s.relisted t := by
  obtain ⟨l, hl, hpicture⟩ := h
  refine ⟨l, hl.trans (if_congr Iff.rfl ?_ rfl), hpicture⟩
  exact State.clear_alerts_congr (s := { s with alerts := l })
    (t := ({ s with alerts := l } : State).withAck k ticks due) rfl rfl _ _

/-- What an event of `s` leaves whose work is the list event `f` from `u`: the sounder's choice after it (R139), and
the frames begun (R192). -/
def State.listTaken (s u : State) (f : State → State) : State := (s.heardSince (u.listEvent f)).finish

section
variable (s u : State) (f : State → State)

theorem State.listTaken_alerts : (s.listTaken u f).alerts = (u.listEvent f).alerts := State.heardSince_alerts _ _

theorem State.listTaken_portCount : portCount (s.listTaken u f).alerts = portCount (f u).alerts := by
  rw [State.listTaken_alerts, State.listEvent_portCount]

end

/-- A change that leaves the list is no event of its neighbours, nor of the sounder (R118, R139). -/
theorem State.listTaken_of_same {s u : State} {f : State → State} (hf : f u = u) (ha : u.alerts = s.alerts)
    (ht : u.panelTest = s.panelTest) (hc : u.chimes = s.chimes) : s.listTaken u f = u.finish := by
  rw [State.listTaken, State.listEvent_of_same hf, State.heardSince_of_same ha ht hc]

section
variable {s : State} {f : State → State} {k : KeyRecord} {ticks : Nat} {due : Bool}

/-- The records are those of the change, but for DRIVE_FAULT where the rail reaches ON. -/
theorem State.makes_listTaken (hf : ListOnly f) (src : Source) (code : Byte) :
    s.makes (s.listTaken (s.withAck k ticks due) f) src code ((f (s.withAck k ticks due)).record src code) :=
  fun h => (State.record_of_alerts (State.listTaken_alerts s _ f) src code).trans
    (State.listEvent_record hf (s.withAck k ticks due) src code h)

theorem State.relisted_listTaken (hf : ListOnly f) (hq : (s.withAck k ticks due).quiet (f (s.withAck k ticks due))) :
    s.relisted (s.listTaken (s.withAck k ticks due) f) :=
  ((State.relisted_listEvent hf hq).of_withAck.heardSince s).finish

/-- What an event comes to whose work is an operation on one record and LIST_OVERFLOW after it. -/
theorem State.overflowTaken_effects {g : State → State} (hf : ListOnly f) (hg : ListOnly g)
    (hwork : f (s.withAck k ticks due) = (s.withAck k ticks due).thenOverflow g)
    (hq : (s.withAck k ticks due).quiet (g (s.withAck k ticks due))) {ns : List Notice}
    (hn : (s.withAck k ticks due).handed (g (s.withAck k ticks due)) ns) {src : Source} {code : Byte}
    (hnames : (s.withAck k ticks due).namesRecord g src code) :
    let t := s.listTaken (s.withAck k ticks due) f
    s.makes t src code ((g (s.withAck k ticks due)).record src code) ∧
    ((src, code) ≠ (.system, listOverflowCode) → s.overflowFollows t) ∧
    s.keepsRecordsBut t [(src, code), (.system, listOverflowCode)] ∧
    (s.withAck k ticks due).listedFrom s (ns ++ s.overflowNotices t) t ∧ s.relisted t := by
  intro t
  obtain ⟨hother, hport⟩ := hnames
  have hoverflow : (src, code) ≠ (.system, listOverflowCode) → (g (s.withAck k ticks due)).record .system
      listOverflowCode = s.record .system listOverflowCode := fun hkey => hother _ _ hkey.symm
  have hcount : portCount t.alerts = portCount (g (s.withAck k ticks due)).alerts := by
    rw [State.listTaken_portCount, hwork, State.thenOverflow_portCount]
  have hmakes (src' : Source) (code' : Byte) :
      s.makes t src' code' (((s.withAck k ticks due).thenOverflow g).record src' code') := by
    rw [← hwork]
    exact State.makes_listTaken hf src' code'
  refine ⟨?_, fun hkey => ?_, fun src' code' hnot hrise => ?_, State.listedFrom_whole hf ?_ rfl,
    State.relisted_listTaken hf ?_⟩
  · rw [← State.thenOverflow_record_named ⟨hother, hport⟩]
    exact hmakes src code
  · have hover := hmakes .system listOverflowCode (Or.inl (by decide))
    rw [State.thenOverflow, State.checkOverflow_record, hoverflow hkey, hg.now, ← hcount] at hover
    exact hover.trans (if_congr (and_iff_right rfl) rfl rfl)
  · rw [List.mem_pair, not_or] at hnot
    exact (hmakes src' code' hrise).trans
      ((State.thenOverflow_record_other hnot.2).trans (hother src' code' hnot.1))
  · rw [hwork]
    exact State.handed_thenOverflow hg hn ((ne_or_eq _ _).imp hoverflow hport) hcount
  · rw [hwork]
    exact State.quiet_thenOverflow hq

end

/-! ### The first record of the banner (R122) -/

/-- Of the eligible records of a list, those of a severity that none of them has. -/
theorem ofSeverity_eligible_eq_nil {l : List Alert} {v : Severity}
    (h : ∀ b ∈ l, b.eligible = true → b.severity ≠ v) : ofSeverity v (l.filter Alert.eligible) = [] := by
  rw [ofSeverity, List.filter_eq_nil_iff]
  intro b hb hv
  obtain ⟨hmem, heligible⟩ := List.mem_filter.mp hb
  exact h b hmem heligible (of_decide_eq_true hv)

theorem selection_eq_nil {l : List Alert} (h : ∀ a ∈ l, a.eligible = false) : selection l = [] := by
  have hnone : l.filter Alert.eligible = [] := List.filter_eq_nil_iff.mpr fun a ha => by simp [h a ha]
  rw [selection, hnone]
  rfl

section
variable {pre post : List Alert} {a : Alert}

/-- The first of the eligible records of its severity is the one that only lower ones stand before. -/
theorem head?_ofSeverity_eligible (ha : a.eligible = true)
    (hpre : ∀ b ∈ pre, b.eligible = true → b.severity.rank < a.severity.rank) :
    (ofSeverity a.severity ((pre ++ a :: post).filter Alert.eligible)).head? = some a := by
  have hbefore : ofSeverity a.severity (pre.filter Alert.eligible) = [] :=
    ofSeverity_eligible_eq_nil fun b hb he hv => absurd (hpre b hb he) (by rw [hv]; exact lt_irrefl _)
  rw [ofSeverity] at hbefore ⊢
  rw [List.filter_append, List.filter_append, hbefore, List.filter_cons_of_pos ha,
    List.filter_cons_of_pos (a := a) (p := fun b => decide (b.severity = a.severity)) (decide_eq_true rfl)]
  rfl

/-- No eligible record is of a severity above the highest. -/
theorem ofSeverity_eligible_eq_nil_of_higher
    (hpre : ∀ b ∈ pre, b.eligible = true → b.severity.rank < a.severity.rank)
    (hpost : ∀ b ∈ post, b.eligible = true → b.severity.rank ≤ a.severity.rank) {v : Severity}
    (hv : a.severity.rank < v.rank) : ofSeverity v ((pre ++ a :: post).filter Alert.eligible) = [] := by
  refine ofSeverity_eligible_eq_nil fun b hb he hsame => ?_
  have hle : b.severity.rank ≤ a.severity.rank := by
    rcases List.mem_append.mp hb with hb | hb
    · exact (hpre b hb he).le
    · rcases List.mem_cons.mp hb with rfl | hb
      · exact le_rfl
      · exact hpost b hb he
  exact absurd hv (by rw [← hsame]; exact not_lt.mpr hle)

/-- The first selected record: the eligible record of highest severity and then lowest position. -/
theorem State.firstSelected_eq_some {s : State} (hs : s.alerts = pre ++ a :: post) (ha : a.eligible = true)
    (hpre : ∀ b ∈ pre, b.eligible = true → b.severity.rank < a.severity.rank)
    (hpost : ∀ b ∈ post, b.eligible = true → b.severity.rank ≤ a.severity.rank) : s.firstSelected = some a := by
  have hfirst := head?_ofSeverity_eligible (post := post) ha hpre
  have hhigher {v : Severity} (hv : a.severity.rank < v.rank) := ofSeverity_eligible_eq_nil_of_higher hpre hpost hv
  rw [State.firstSelected, hs, selection, bySeverity]
  cases hseverity : a.severity with
  | warning =>
    rw [hseverity] at hfirst
    rw [List.append_assoc, List.head?_append, hfirst]
    rfl
  | caution =>
    rw [hseverity] at hfirst
    rw [hhigher (v := .warning) (by rw [hseverity]; decide), List.nil_append, List.head?_append, hfirst]
    rfl
  | advisory =>
    rw [hseverity] at hfirst
    rw [hhigher (v := .warning) (by rw [hseverity]; decide), hhigher (v := .caution) (by rw [hseverity]; decide)]
    exact hfirst

end

/-! ### ACK_PRESS (R153) -/

theorem KeyRecord.not_pressDue {k : KeyRecord} (h : k.held = true ∨ k.debounce < 4) : ¬k.pressDue = true := by
  rw [KeyRecord.pressDue, Bool.and_eq_true, Bool.not_eq_true', decide_eq_true_eq]
  rintro ⟨hfree, hfour⟩
  exact h.elim (by simp [hfree]) (not_lt.mpr hfour)

theorem KeyRecord.pressDue_of_released {k : KeyRecord} (h : k.held = false) (h4 : 4 ≤ k.debounce) :
    k.pressDue = true := by
  rw [KeyRecord.pressDue, h, decide_eq_true h4]
  rfl

theorem KeyRecord.take_of_released {k : KeyRecord} (h : k.held = false) : k.take = ⟨true, k.pressed, 0⟩ := by
  rw [KeyRecord.take, h]
  rfl

/-- The state after a press of ACK is taken (R152). -/
def State.ackPressed (s : State) : State := s.withAck ⟨true, s.keys.ack.pressed, 0⟩ 0 false

theorem State.pressAck_of_not_due {s : State} (h : s.keys.ack.held = true ∨ s.keys.ack.debounce < 4) :
    s.pressAck = s := if_neg (KeyRecord.not_pressDue h)

theorem State.pressAck_of_due {s : State} (h : s.keys.ack.held = false) (h4 : 4 ≤ s.keys.ack.debounce) :
    s.pressAck = s.ackPressed.listEvent State.acknowledgeFirst := by
  have htaken : s.takeAck = s.ackPressed := by
    rw [State.takeAck, KeyRecord.take_of_released h]
    rfl
  rw [State.pressAck, if_pos (KeyRecord.pressDue_of_released h h4), htaken]

theorem exec_ackPress_of_due {s : State} (h : s.keys.ack.held = false) (h4 : 4 ≤ s.keys.ack.debounce) :
    exec .ackPress s = .next (s.listTaken s.ackPressed State.acknowledgeFirst) := by
  show Host.Outcome.next (s.whole State.pressAck) = _
  rw [State.whole, State.pressAck_of_due h h4]
  rfl

theorem State.acknowledgeFirst_of_none {s : State} (h : ∀ a ∈ s.alerts, a.eligible = false) :
    s.acknowledgeFirst = s := by
  have hfirst : s.firstSelected = none := by rw [State.firstSelected, selection_eq_nil h]; rfl
  rw [State.acknowledgeFirst, hfirst]

theorem State.acknowledgeFirst_of_some {s : State} {a : Alert} (h : s.firstSelected = some a) :
    s.acknowledgeFirst = s.thenOverflow (State.acknowledge .key a.source a.code) := by
  rw [State.acknowledgeFirst, h]
  rfl

/-- Settles O49: the press is one list event, the acknowledgement of the first selected record
(`State.firstSelected_eq_some`) and then LIST_OVERFLOW (`State.thenOverflow`). -/
theorem ackPressAcknowledgesTheFirst : Obligations.AckPressAcknowledgesTheFirst := by
  unfold Obligations.AckPressAcknowledgesTheFirst
  intro s taken
  refine ⟨fun hnot => congrArg Host.Outcome.next (State.whole_of_unchanged (State.pressAck_of_not_due hnot)),
    fun hfree hfour => ⟨fun hnone => ?_, fun pre post a hlist ha hpre hpost hrecord => ?_⟩⟩
  · have hsame : taken.acknowledgeFirst = taken := State.acknowledgeFirst_of_none (s := taken) hnone
    exact (exec_ackPress_of_due hfree hfour).trans
      (congrArg Host.Outcome.next (State.listTaken_of_same hsame rfl rfl rfl))
  · have hwork : taken.acknowledgeFirst = taken.thenOverflow (State.acknowledge .key a.source a.code) :=
      State.acknowledgeFirst_of_some (State.firstSelected_eq_some (s := taken) hlist ha hpre hpost)
    have hafter := taken.acknowledge_record .key a.source a.code a.source a.code
    have hhanded := taken.handed_acknowledge .key a.source a.code
    have hpresent : taken.record a.source a.code = some a := hrecord
    rw [if_pos rfl, hpresent] at hafter
    rw [hpresent] at hhanded
    obtain ⟨hmakes, heffects⟩ := State.overflowTaken_effects (s := s) listOnly_acknowledgeFirst
      (listOnly_acknowledge _ _ _) hwork (State.quiet_acknowledge _ _ _ _) hhanded
      (taken.namesRecord_acknowledge .key a.source a.code)
    exact ⟨_, exec_ackPress_of_due hfree hfour, fun hrise => (hmakes hrise).trans hafter, heffects⟩

end Sys2Proof.Machine
end

section
/-!
PROOF. ACK_HOLD (O50): the acknowledgement of every eligible record, by KEY and in list order (R104, R154), and
LIST_OVERFLOW after it (R111).
-/

namespace Sys2Proof.Machine

/-! ### Operations on records under different keys -/

/-- Operations on the records under different keys, each of which makes `after` of its own record and leaves the
others, make `after` of every record they name. -/
theorem State.foldl_record {f : State → Source × Byte → State} {after : Stamp → Option Alert → Option Alert}
    (hf : ∀ k, ListOnly fun s => f s k)
    (hr : ∀ (s : State) (k : Source × Byte) (src : Source) (code : Byte), (f s k).record src code =
      if (src, code) = k then after s.now (s.record src code) else s.record src code)
    {ks : List (Source × Byte)} (hn : ks.Nodup) (s : State) (src : Source) (code : Byte) :
    (ks.foldl f s).record src code =
      if (src, code) ∈ ks then after s.now (s.record src code) else s.record src code := by
  induction ks generalizing s with
  | nil => rfl
  | cons k ks ih =>
    obtain ⟨hk, hks⟩ := List.nodup_cons.mp hn
    rw [List.foldl_cons, ih hks (f s k), hr, (hf k).now]
    by_cases hkey : (src, code) = k
    · rw [if_pos hkey, if_neg (hkey ▸ hk), if_pos (hkey ▸ List.mem_cons_self)]
    · rw [if_neg hkey]
      exact if_congr (by rw [List.mem_cons, or_iff_right hkey]) rfl rfl

/-! ### The acknowledgements (R104) -/

/-- The source and code of each record eligible now, in list order. -/
def State.eligibleKeys (s : State) : List (Source × Byte) :=
  (s.alerts.filter Alert.eligible).map fun a => (a.source, a.code)

/-- Every record eligible now, acknowledged by KEY, in list order. -/
def State.acknowledgeAll (s : State) : State := s.eligibleKeys.foldl (fun t k => t.acknowledge .key k.1 k.2) s

theorem State.acknowledgeEligible_eq (s : State) :
    s.acknowledgeEligible = s.thenOverflow State.acknowledgeAll := rfl

theorem listOnly_acknowledgeAll : ListOnly State.acknowledgeAll := fun s =>
  listOnly_foldl s.eligibleKeys (fun k => listOnly_acknowledge .key k.1 k.2) s

/-- What the hold makes of the record under a source and code. -/
def afterHold (now : Stamp) (r : Option Alert) : Option Alert :=
  r.bind fun a => if a.eligible = true then afterAck .key now (some a) else some a

section
variable {s : State} (h : s.alertsOk = true)
include h

theorem State.nodup_eligibleKeys : s.eligibleKeys.Nodup :=
  (State.uniqueKeys_of_alertsOk h).sublist (List.filter_sublist.map _)

/-- A key is among them exactly where the record under it is eligible. -/
theorem State.mem_eligibleKeys (src : Source) (code : Byte) :
    (src, code) ∈ s.eligibleKeys ↔ ∃ a, s.record src code = some a ∧ a.eligible = true := by
  constructor
  · intro hmem
    obtain ⟨a, ha, hkey⟩ := List.mem_map.mp hmem
    obtain ⟨rfl, rfl⟩ := Prod.mk.inj hkey
    obtain ⟨hlist, heligible⟩ := List.mem_filter.mp ha
    exact ⟨a, State.record_of_mem h hlist, heligible⟩
  · rintro ⟨a, hr, heligible⟩
    obtain ⟨hsource, hcode⟩ := State.record_isFor hr
    exact List.mem_map.mpr ⟨a, List.mem_filter.mpr ⟨List.mem_of_find?_eq_some hr, heligible⟩,
      Prod.ext hsource hcode⟩

theorem State.acknowledgeAll_record (src : Source) (code : Byte) :
    s.acknowledgeAll.record src code = afterHold s.now (s.record src code) := by
  have hfold := State.foldl_record (f := fun t k => t.acknowledge .key k.1 k.2) (after := afterAck .key)
    (fun k => listOnly_acknowledge .key k.1 k.2) (fun t k src code => by
      rw [State.acknowledge_record]
      refine ite_congr rfl (fun hkey => ?_) fun _ => rfl
      rw [← hkey]) (State.nodup_eligibleKeys h) s src code
  rw [State.acknowledgeAll, hfold, if_congr (State.mem_eligibleKeys h src code) rfl rfl, afterHold]
  cases s.record src code with
  | none => rfl
  | some a => simp

theorem State.handed_acknowledgeAll : s.handed s.acknowledgeAll
    ((s.alerts.filter Alert.eligible).flatMap fun a => ackNotices .key s.now (some a)) :=
  State.handed_foldl_records (f := fun t k => t.acknowledge .key k.1 k.2)
    (fun k => listOnly_acknowledge .key k.1 k.2) (fun t k => t.handed_acknowledge .key k.1 k.2)
    (fun t k src code hk => by rw [State.acknowledge_record, if_neg hk]) h Alert.eligible

end

/-! ### ACK_HOLD (R154) -/

theorem State.holdAck_of_not_due {s : State} (h : s.keys.holdDue = false) : s.holdAck = s := by
  rw [State.holdAck, h]
  rfl

/-- The state with the mark of a due hold taken. -/
def State.holdTaken (s : State) : State := s.withAck s.keys.ack s.keys.holdTicks false

theorem exec_ackHold_of_due {s : State} (h : s.keys.holdDue = true) :
    exec .ackHold s = .next (s.listTaken s.holdTaken State.acknowledgeEligible) := by
  show Host.Outcome.next (s.whole State.holdAck) = _
  rw [State.whole, State.holdAck, if_pos h]
  rfl

/-- Settles O50: the hold is one list event, the acknowledgements (`State.acknowledgeAll`) and then LIST_OVERFLOW
(`State.thenOverflow`), which may itself be among the acknowledged. -/
theorem ackHoldAcknowledgesAll : Obligations.AckHoldAcknowledgesAll := by
  unfold Obligations.AckHoldAcknowledgesAll
  intro s hok
  refine ⟨fun hnot => congrArg Host.Outcome.next (State.whole_of_unchanged (State.holdAck_of_not_due hnot)),
    fun hdue => ⟨_, exec_ackHold_of_due hdue, ?_⟩⟩
  have htaken : s.holdTaken.alertsOk = true := hok
  have hnow : s.holdTaken.acknowledgeAll.now = s.now := listOnly_acknowledgeAll.now s.holdTaken
  have hrecord (src : Source) (code : Byte) : s.holdTaken.acknowledgeAll.record src code =
    afterHold s.now (s.record src code) := State.acknowledgeAll_record htaken src code
  have hmakes (src : Source) (code : Byte) : s.makes (s.listTaken s.holdTaken State.acknowledgeEligible) src code
    (s.holdTaken.acknowledgeEligible.record src code) := State.makes_listTaken listOnly_acknowledgeEligible src code
  have hcount : portCount (s.listTaken s.holdTaken State.acknowledgeEligible).alerts =
      portCount s.holdTaken.acknowledgeAll.alerts := by
    rw [State.listTaken_portCount, State.acknowledgeEligible_eq, State.thenOverflow_portCount]
  refine ⟨fun src code hkey hrise => ?_, ⟨?_, ?_⟩, ?_⟩
  · rw [hmakes src code hrise, State.acknowledgeEligible_eq, State.thenOverflow_record_other hkey]
    exact hrecord src code
  · rw [hmakes .system listOverflowCode (Or.inl (by decide)), State.acknowledgeEligible_eq, State.thenOverflow,
      State.checkOverflow_record, hrecord, hnow, ← hcount]
    exact if_congr (and_iff_right rfl) rfl rfl
  · refine State.listedFrom_whole (s := s.holdTaken) listOnly_acknowledgeEligible ?_ rfl
    have hover := State.handed_checkOverflow s.holdTaken.acknowledgeAll (portCount s.alerts)
    rw [hrecord, hnow, ← hcount] at hover
    exact (State.handed_acknowledgeAll htaken).trans hover ((listOnly_checkOverflow _).windows _)
  · exact State.relisted_listTaken listOnly_acknowledgeEligible (State.quiet_acknowledgeEligible _)

end Sys2Proof.Machine
end

section
/-!
PROOF. SILENCE_PRESS (O51): a change of the list that silences records leaves the picture, and the sounder chooses
again after it with an empty chime queue (R139, R148, R155).
-/

namespace Sys2Proof.Machine

/-! ### The silencing (R106) -/

/-- The record silenced, if it is ACTIVE_UNACK. -/
def Alert.silencedIfActive (a : Alert) : Alert := if a.state = .activeUnack then { a with silenced := true } else a

theorem Alert.silencesOnly_silencedIfActive : SilencesOnly Alert.silencedIfActive := fun a => by
  unfold Alert.silencedIfActive
  split_ifs <;> rfl

section
variable (s : State)

/-- The state after a press of SILENCE is taken, with the chime queue emptied (R148, R155). -/
def State.silencePressed : State :=
  { s with
    keys := { s.keys with silence := ⟨true, s.keys.silence.pressed, 0⟩ }
    chimes := [] }

/-- So, with every ACTIVE_UNACK record silenced and the banner's tiles reported (R127). -/
def State.allSilenced : State := s.silencePressed.listChange State.silenceAll

/-- So, and the drive's answer. -/
def State.silenceAnswered : State := s.allSilenced.driveReact

theorem State.allSilenced_alerts : s.allSilenced.alerts = s.alerts.map Alert.silencedIfActive := rfl

/-- Silencing leaves the picture. -/
theorem State.pictured_allSilenced : s.pictured s.allSilenced := by
  have h := State.pictured_of_silenced (s := s) Alert.silencesOnly_silencedIfActive
  rwa [← s.allSilenced_alerts] at h

/-- So its reports leave every tile. -/
theorem State.allSilenced_tiles : s.allSilenced.tiles = s.tiles :=
  (State.compositorEvent_tiles (s := s) (u := s.silencePressed.silenceAll) (f := bandRows) bandTiles_nodup
    (fun n => by rw [mem_bandTiles, bandRows, decide_eq_true_iff]) rfl rfl rfl).trans
    (s.pictured_allSilenced.reportedTiles bandRows)

/-- Each record is silenced as it should be, but for DRIVE_FAULT's clearing where the rail reaches ON. -/
theorem State.recordsBecome_silenceAnswered : s.recordsBecome s.silenceAnswered Alert.silencedIfActive := by
  refine ⟨fun src code h => ?_, fun h => (s.allSilenced.drawnTo_driveReact.plain fun hr => h hr.1).1⟩
  have hrecord : s.allSilenced.record src code = (s.record src code).map Alert.silencedIfActive := by
    rw [State.record, State.allSilenced_alerts, List.find?_map, State.record]
    exact congrArg (fun p => (s.alerts.find? p).map _)
      (funext (Alert.silencesOnly_silencedIfActive.isFor src code))
  exact (s.allSilenced.driveReact_record src code h).trans hrecord

/-- The banner's tiles are reported, and the drive answers. -/
theorem State.redrawn_silenceAnswered : s.redrawn s.silenceAnswered bandRows := by
  have hwaits : s.waitsFollow s.allSilenced fun _ w => w.settles s.tiles s.allSilenced.tiles :=
    (s.silencePressed.silenceAll.compositorEvent_waits s.silencePressed.view bandTiles).congr (fun _ => rfl)
      (fun _ => rfl) rfl fun _ _ => Iff.rfl
  have hdrives := State.drives_driveReact (s := s) (c := s.allSilenced) rfl rfl rfl hwaits
  have hsilenced : ({ s.silenceAnswered with alerts := s.alerts } : State).pictured
      { s.silenceAnswered with alerts := s.allSilenced.alerts } :=
    State.pictured_of_silenced (s := { s.silenceAnswered with alerts := s.alerts })
      Alert.silencesOnly_silencedIfActive
  have hstands : s.pictured { s.silenceAnswered with alerts := s.alerts } :=
    (s.pictured_allSilenced.trans (State.alike_drawn s.allSilenced.drawnTo_driveReact).symm.pictured).trans
      hsilenced.symm
  have h := hdrives.of_pictured hsilenced.symm
  rwa [s.allSilenced_tiles, ← hstands.reportedTiles bandRows] at h

/-- No notice is handed but DRIVE_FAULT's. -/
theorem State.listedTo_silenceAnswered : s.silencePressed.listedTo [] s.silenceAnswered :=
  (State.listedTo_listChange listOnly_silenceAll (State.handed_of_ports rfl)).then (State.drawnTo_driveReact _)

/-! ### The choice after it (R139) -/

/-- The choice is made from the pattern that played and an empty chime queue. -/
theorem State.hears_silenceAnswered : s.silencePressed.hears s.silenceAnswered.chooseSource := by
  obtain ⟨hchimes, hpattern, htest, htones⟩ := s.allSilenced.driveReact_sounder
  have hchoice := State.chooseSource_congr (s := s.silenceAnswered)
    (u := { s.silencePressed with alerts := s.silenceAnswered.chooseSource.alerts }) (State.chooseSource_alerts _)
    htest.symm hchimes.symm hpattern.symm htones.symm
  exact ⟨hchoice.1.symm, hchoice.2.symm⟩

/-- A choice puts no chime into the queue (R145). -/
theorem State.chooseSource_chimes_of_empty {s : State} (h : s.chimes = []) : s.chooseSource.chimes = [] := by
  unfold State.chooseSource
  split
  · exact h
  · split
    · exact h
    · split_ifs
      · exact h
      · exact h
      · show s.chimes.tail = []
        rw [h]
        rfl
      · exact h

theorem State.silenceAnswered_chimes : s.silenceAnswered.chooseSource.chimes = [] :=
  State.chooseSource_chimes_of_empty s.allSilenced.driveReact_sounder.1

/-! ### SILENCE_PRESS (R155) -/

/-- What a press of SILENCE leaves, taken whole. -/
def State.silenceTaken : State := s.silenceAnswered.chooseSource.finish

end

section
variable {s : State}

theorem State.pressSilence_of_not_due (h : s.keys.silence.held = true ∨ s.keys.silence.debounce < 4) :
    s.pressSilence = s := if_neg (KeyRecord.not_pressDue h)

theorem exec_silencePress_of_due (h : s.keys.silence.held = false) (h4 : 4 ≤ s.keys.silence.debounce) :
    exec .silencePress s = .next s.silenceTaken := by
  have htaken : ({ s.takeSilence with chimes := [] } : State) = s.silencePressed := by
    rw [State.takeSilence, KeyRecord.take_of_released h]
    rfl
  show Host.Outcome.next (s.whole State.pressSilence) = _
  rw [State.whole, State.pressSilence, if_pos (KeyRecord.pressDue_of_released h h4), htaken,
    State.heardSince_chooseSource]
  rfl

end

/-- Settles O51: the press silences every ACTIVE_UNACK record, which leaves the picture, and ends with a choice. -/
theorem silencePressSilences : Obligations.SilencePressSilences := by
  unfold Obligations.SilencePressSilences
  intro s
  refine ⟨fun hnot => congrArg Host.Outcome.next (State.whole_of_unchanged (State.pressSilence_of_not_due hnot)),
    fun hfree hfour => ⟨_, exec_silencePress_of_due hfree hfour,
      s.recordsBecome_silenceAnswered.of_alerts (State.chooseSource_alerts _), s.silenceAnswered_chimes,
      State.soundOk_chooseSource _, ⟨_, ?_, fun _ => s.hears_silenceAnswered, rfl⟩, ?_⟩⟩
  · rw [State.chooseSource_eq_heardSince]
    exact s.listedTo_silenceAnswered.heard _
  · rw [State.silenceTaken, State.chooseSource_eq_heardSince]
    exact (s.redrawn_silenceAnswered.heardSince _).finish

end Sys2Proof.Machine
end

section
/-!
PROOF. ACK_RELEASE, SILENCE_RELEASE, TEST_PRESS and TEST_RELEASE (O52): a release is a change of the key record, and a
change of TEST an overlay event where panel test active changes with it (R152, R156, R158).
-/

namespace Sys2Proof.Machine

/-! ### The releases of ACK and SILENCE (R152) -/

theorem KeyRecord.releaseDue_iff (k : KeyRecord) : k.releaseDue = true ↔ k.held = true ∧ 4 ≤ k.debounce := by
  rw [KeyRecord.releaseDue, Bool.and_eq_true, decide_eq_true_eq]

theorem KeyRecord.take_of_held {k : KeyRecord} (h : k.held = true) : k.take = ⟨false, k.pressed, 0⟩ := by
  rw [KeyRecord.take, h]
  rfl

theorem State.releaseAck_eq (s : State) : s.releaseAck =
    if s.keys.ack.held = true ∧ 4 ≤ s.keys.ack.debounce
    then s.withAck ⟨false, s.keys.ack.pressed, 0⟩ 0 false else s := by
  rw [State.releaseAck, if_congr s.keys.ack.releaseDue_iff rfl rfl]
  refine ite_congr rfl (fun hdue => ?_) fun _ => rfl
  rw [State.takeAck, KeyRecord.take_of_held hdue.1]
  rfl

theorem State.releaseSilence_eq (s : State) : s.releaseSilence =
    if s.keys.silence.held = true ∧ 4 ≤ s.keys.silence.debounce
    then { s with keys := { s.keys with silence := ⟨false, s.keys.silence.pressed, 0⟩ } } else s := by
  rw [State.releaseSilence, if_congr s.keys.silence.releaseDue_iff rfl rfl]
  refine ite_congr rfl (fun hdue => ?_) fun _ => rfl
  rw [State.takeSilence, KeyRecord.take_of_held hdue.1]

theorem exec_ackRelease (s : State) : exec .ackRelease s = .next s.releaseAck.finish := by
  refine congrArg Host.Outcome.next (State.whole_of_same ?_ ?_ ?_) <;>
  · rw [State.releaseAck_eq]
    split_ifs <;> rfl

theorem exec_silenceRelease (s : State) : exec .silenceRelease s = .next s.releaseSilence.finish := by
  refine congrArg Host.Outcome.next (State.whole_of_same ?_ ?_ ?_) <;>
  · rw [State.releaseSilence_eq]
    split_ifs <;> rfl

/-! ### A change of TEST (R156, R158) -/

section
variable {s : State}

/-- The state after a change of the TEST record is taken. -/
def State.testToggled (s : State) : State :=
  { s with keys := { s.keys with test := ⟨!s.keys.test.held, s.keys.test.pressed, 0⟩ } }

/-- While the remote test flag is set, panel test stays active (R7). -/
theorem State.testToggled_panelTest_of_remote (h : s.remoteTest = true) :
    s.testToggled.panelTest = s.panelTest := by
  show (!s.keys.test.held || s.remoteTest) = (s.keys.test.held || s.remoteTest)
  rw [h, Bool.or_true, Bool.or_true]

/-- So a change of TEST is then no event of the overlay. -/
theorem State.takeTest_of_remote (h : s.remoteTest = true) : s.takeTest = s.testToggled :=
  if_pos (State.testToggled_panelTest_of_remote h)

theorem State.testToggled_panelTest_of_local (h : s.remoteTest = false) : s.testToggled.panelTest ≠ s.panelTest := by
  show (!s.keys.test.held || s.remoteTest) ≠ (s.keys.test.held || s.remoteTest)
  rw [h, Bool.or_false, Bool.or_false]
  exact Bool.not_ne_self _

/-- With the flag clear, it is an overlay event. -/
theorem State.takeTest_of_local (h : s.remoteTest = false) :
    s.takeTest = s.testToggled.composed s.view allTiles := if_neg (State.testToggled_panelTest_of_local h)

/-- What a change of TEST that is an overlay event leaves, taken whole (R139, R192). -/
def State.testTaken (s : State) : State := (s.heardSince (s.testToggled.composed s.view allTiles)).finish

/-- No notice is handed but DRIVE_FAULT's, and the sounder chooses after the event. -/
theorem State.listedFrom_testTaken : s.testToggled.listedFrom s [] s.testTaken :=
  ⟨_, (State.drawnTo_composed s.testToggled s.view allTiles).listed.heard s, fun hok =>
    State.hears_heardSince (s := s.testToggled) hok rfl (State.composed_chimes _ _ _) (State.composed_pattern _ _ _)
      (by simp [State.panelTest]) (State.composed_tones _ _ _), rfl⟩

/-- The sounder chooses, whatever it played: panel test active has changed. -/
theorem State.soundOk_testTaken (h : s.remoteTest = false) : s.testTaken.soundOk = true := by
  have htest : (s.testToggled.composed s.view allTiles).panelTest = s.testToggled.panelTest := by
    simp [State.panelTest]
  have hchoose : s.heardSince (s.testToggled.composed s.view allTiles) =
      (s.testToggled.composed s.view allTiles).chooseSource :=
    if_neg fun hsame => State.testToggled_panelTest_of_local h (htest.symm.trans hsame.2.1)
  rw [State.testTaken, hchoose]
  exact State.soundOk_chooseSource _

/-- Every record stands but DRIVE_FAULT, which the rail's reaching ON clears (R78). -/
theorem State.keepsRecords_testTaken : s.keepsRecords s.testTaken := by
  obtain ⟨_, _, _, _, hkeeps, _⟩ := State.drawnTo_composed s.testToggled s.view allTiles
  exact State.keepsRecords.trans hkeeps (State.keepsRecords_of_alerts (State.heardSince_alerts _ s))

/-- All tiles are reported, the waits that this settles end, and the drive answers. -/
theorem State.redrawn_testTaken : s.redrawn s.testTaken fun _ => true := by
  have hcomposed : s.redrawn (s.testToggled.composed s.view allTiles) fun _ => true :=
    State.redrawn_composed allTiles_nodup (fun n => iff_of_true rfl (mem_allTiles n)) rfl rfl rfl rfl rfl rfl rfl
      (State.waitsFollow_of_waits fun _ => rfl)
  exact (hcomposed.heardSince s).finish

/-! ### TEST_PRESS and TEST_RELEASE -/

theorem State.pressTest_of_not_due (h : s.keys.test.held = true ∨ s.keys.test.debounce < 4) : s.pressTest = s :=
  if_neg (KeyRecord.not_pressDue h)

theorem State.releaseTest_of_not_due (h : s.keys.test.held = false ∨ s.keys.test.debounce < 4) :
    s.releaseTest = s := by
  refine if_neg fun hdue => ?_
  obtain ⟨hheld, hfour⟩ := (KeyRecord.releaseDue_iff _).mp hdue
  exact h.elim (by simp [hheld]) (not_lt.mpr hfour)

/-- A press and a release of TEST that are due are one change. -/
theorem exec_testChange {c : Instr}
    (hc : (c = .testPress ∧ s.keys.test.held = false) ∨ (c = .testRelease ∧ s.keys.test.held = true))
    (h4 : 4 ≤ s.keys.test.debounce) : exec c s = .next (s.heardSince s.takeTest).finish := by
  rcases hc with ⟨rfl, hfree⟩ | ⟨rfl, hheld⟩
  · show Host.Outcome.next (s.whole State.pressTest) = _
    rw [State.whole, State.pressTest, if_pos (KeyRecord.pressDue_of_released hfree h4)]
  · show Host.Outcome.next (s.whole State.releaseTest) = _
    rw [State.whole, State.releaseTest, if_pos ((KeyRecord.releaseDue_iff _).mpr ⟨hheld, h4⟩)]

end

/-- Settles O52: the releases change their record alone (`State.releaseAck_eq`, `State.releaseSilence_eq`), and a change
of TEST is an overlay event where the remote test flag is clear (`State.testTaken`). -/
theorem keyReleasesAndTest : Obligations.KeyReleasesAndTest := by
  unfold Obligations.KeyReleasesAndTest
  intro s
  refine ⟨?_, ?_, fun hnot => congrArg Host.Outcome.next (State.whole_of_unchanged (State.pressTest_of_not_due hnot)),
    fun hnot => congrArg Host.Outcome.next (State.whole_of_unchanged (State.releaseTest_of_not_due hnot)),
    fun c hc hfour => ?_⟩
  · rw [exec_ackRelease, State.releaseAck_eq]
    rfl
  · rw [exec_silenceRelease, State.releaseSilence_eq]
  refine ⟨fun hremote => ?_, fun hlocal => ?_⟩
  · rw [exec_testChange hc hfour, State.takeTest_of_remote hremote,
      State.heardSince_of_same (b := s) (s := s.testToggled) rfl (State.testToggled_panelTest_of_remote hremote) rfl]
    rfl
  · refine ⟨s.testTaken, ?_, State.listedFrom_testTaken, State.soundOk_testTaken hlocal,
      State.keepsRecords_testTaken, State.redrawn_testTaken⟩
    rw [exec_testChange hc hfour, State.takeTest_of_local hlocal, State.testTaken]

end Sys2Proof.Machine
end

section
/-!
PROOF. TICK_EVENT, SECOND_EVENT and BLINK_EVENT (O53, O54): the tick counted where nothing is left due, the counts of
seconds, and the phase's toggle as a composition event.
-/

namespace Sys2Proof.Machine

/-! ### TICK_EVENT (R163) -/

theorem State.not_isDue {s : State} (h : s.dueNow = []) (d : Due) : s.isDue d = false := by
  rw [← Bool.not_eq_true, ← State.mem_dueNow, h]
  exact List.not_mem_nil

/-- What is due is taken first (log 2): the tick is counted as from the settled state. -/
theorem exec_tickEvent_settle {s : State} (ack silence test : Bool) (h : s.settle.dueNow = []) :
    exec (.tickEvent ack silence test) s = exec (.tickEvent ack silence test) s.settle :=
  congrArg (fun u : State => Host.Outcome.next (u.tick ack silence test).finish) (State.settle_of_none h).symm

theorem TimeBase.advance_of_none {t : TimeBase} (h2 : t.secondDue = false) (hb : t.blinkDue = false) :
    t.advance = ⟨t.tick + 1, if t.tick = 63 then t.seconds + 1 else t.seconds, t.phase, decide (t.tick = 63),
      decide (t.tick = 63 ∨ t.tick = 31)⟩ := by
  rw [TimeBase.advance, h2, hb, Bool.false_or, Bool.false_xor]

theorem Keys.tick_of_none {k : Keys} (ack silence test : Bool) (h : k.holdDue = false) :
    k.tick ack silence test = ⟨k.ack.sample ack, k.silence.sample silence, k.test.sample test,
      if k.ack.held = true ∧ k.holdTicks < 128 then k.holdTicks + 1 else k.holdTicks,
      decide ((k.ack.held = true ∧ k.holdTicks < 128) ∧ k.holdTicks = 127)⟩ := by
  rw [Keys.tick, h]
  simp

theorem vector_map_four {α β : Type} (v : Vector α 4) (f : α → β) : #v[f v[0], f v[1], f v[2], f v[3]] = v.map f :=
  Vector.ext fun i hi => by
    rw [Vector.getElem_map]
    interval_cases i <;> rfl

/-- Settles O53: the settled state is reached by due events taken (`State.takesDue_settle`); with none due the tick
counts in each block. -/
theorem tickCounts : Obligations.TickCounts := by
  unfold Obligations.TickCounts
  refine ⟨fun s ack silence test htones hrail => ?_, fun s ack silence test hnone => ?_⟩
  · obtain ⟨ds, htaken, hleft⟩ := State.takesDue_settle (State.sound_of_laws htones hrail)
    exact ⟨ds, _, htaken, hleft, exec_tickEvent_settle ack silence test hleft⟩
  · refine congrArg (fun u : State => Host.Outcome.next u.finish) ?_
    rw [State.settle_of_none hnone]
    unfold State.tick
    rw [TimeBase.advance_of_none (State.not_isDue hnone .second) (State.not_isDue hnone .blink),
      Keys.tick_of_none ack silence test (State.not_isDue hnone .ackHold), vector_map_four]
    rfl

/-! ### SECOND_EVENT (R164) -/

theorem State.takeSecond_of_not_due {s : State} (h : s.time.secondDue = false) : s.takeSecond = s := by
  rw [State.takeSecond, h]
  rfl

theorem State.takeSecond_of_due {s : State} (h : s.time.secondDue = true) : s.takeSecond = { s with
    time := { s.time with secondDue := false }
    refreshCount := if s.refreshPeriod = 0 then 0 else s.refreshCount + 1
    shelvingDue := s.alerts.any (Alert.expired s.time.seconds)
    ports := s.ports.map PortUnit.countSecond } := by
  rw [State.takeSecond, if_pos h, ← vector_map_four]
  rfl

theorem State.takeSecond_sounder (s : State) : s.takeSecond.alerts = s.alerts ∧
    s.takeSecond.panelTest = s.panelTest ∧ s.takeSecond.chimes = s.chimes := by
  unfold State.takeSecond
  split <;> exact ⟨rfl, rfl, rfl⟩

/-- The counts of a second event are nothing the sounder hears. -/
theorem State.whole_takeSecond (s : State) : s.whole State.takeSecond = s.takeSecond.finish := by
  obtain ⟨halerts, htest, hchimes⟩ := s.takeSecond_sounder
  exact State.whole_of_same halerts htest hchimes

/-! ### BLINK_EVENT (R165) -/

theorem State.takeBlink_of_not_due {s : State} (h : s.time.blinkDue = false) : s.takeBlink = s := by
  rw [State.takeBlink, h]
  rfl

/-- The state with the phase toggled and the blink event taken, before the cells are re-evaluated. -/
def State.phaseToggled (s : State) : State :=
  { s with time := ⟨s.time.tick, s.time.seconds, !s.time.phase, s.time.secondDue, false⟩ }

theorem State.takeBlink_of_due {s : State} (h : s.time.blinkDue = true) :
    s.takeBlink = s.phaseToggled.composed s.view allTiles := by
  rw [State.takeBlink, if_pos h]
  rfl

/-- What a blink event leaves, taken whole. -/
def State.blinkTaken (s : State) : State := (s.heardSince (s.phaseToggled.composed s.view allTiles)).finish

theorem State.drawnFrom_blinkTaken (s : State) : s.phaseToggled.drawnFrom s.blinkTaken :=
  ⟨_, (State.drawnTo_composed s.phaseToggled s.view allTiles).heard (b := s) rfl rfl rfl,
    fun hok => State.hears_heardSince (s := s.phaseToggled) hok rfl (State.composed_chimes _ _ _)
      (State.composed_pattern _ _ _) (by simp [State.panelTest]) (State.composed_tones _ _ _), rfl⟩

theorem State.redrawn_blinkTaken (s : State) : s.redrawn s.blinkTaken fun _ => true := by
  have hcomposed : s.redrawn (s.phaseToggled.composed s.view allTiles) fun _ => true :=
    State.redrawn_composed allTiles_nodup (fun n => iff_of_true rfl (mem_allTiles n)) rfl rfl rfl rfl rfl rfl rfl
      (State.waitsFollow_of_waits fun _ => rfl)
  exact (hcomposed.heardSince s).finish

/-- Settles O54: a second event counts and the sounder hears nothing of it; a blink event is a composition event that
re-evaluates every tile; without the tick's mark neither does anything (log 3). -/
theorem secondAndBlinkEvents : Obligations.SecondAndBlinkEvents := by
  unfold Obligations.SecondAndBlinkEvents
  refine fun s => ⟨fun hnot => ?_, fun hdue => ?_, fun hnot => ?_, fun hdue => ?_⟩
  · exact congrArg Host.Outcome.next (State.whole_of_unchanged (State.takeSecond_of_not_due hnot))
  · refine congrArg Host.Outcome.next ?_
    rw [State.whole_takeSecond, State.takeSecond_of_due hdue]
    rfl
  · exact congrArg Host.Outcome.next (State.whole_of_unchanged (State.takeBlink_of_not_due hnot))
  · refine ⟨s.blinkTaken, congrArg Host.Outcome.next ?_, s.drawnFrom_blinkTaken, s.redrawn_blinkTaken⟩
    rw [State.whole, State.takeBlink_of_due hdue]
    rfl

end Sys2Proof.Machine
end

section
/-!
PROOF. The alert list's laws (R88, R91) through each operation on the list: what an operation makes of the records
keeps their sources, codes and ranges, and a raise adds a record where there is room.
-/

namespace Sys2Proof.Machine

/-! ### The laws of a list of records -/

/-- At most 32 port records, no two of one source and code, each in its ranges (R88, R91). -/
structure ListLaws (l : List Alert) : Prop where
  count : portCount l ≤ 32
  keys : uniqueKeys l
  each : ∀ a ∈ l, a.ok = true

theorem State.alertsOk_iff (s : State) : s.alertsOk = true ↔ ListLaws s.alerts := by
  unfold State.alertsOk
  rw [Bool.and_eq_true, Bool.and_eq_true, decide_eq_true_eq, decide_eq_true_eq, List.all_eq_true]
  exact ⟨fun ⟨⟨hcount, hkeys⟩, heach⟩ => ⟨hcount, hkeys, heach⟩, fun h => ⟨⟨h.count, h.keys⟩, h.each⟩⟩

theorem State.alertsOk_of_alerts {s t : State} (h : t.alerts = s.alerts) (hs : s.alertsOk = true) :
    t.alertsOk = true := by
  rw [State.alertsOk_iff] at hs ⊢
  rwa [h]

/-- A record's ranges (R88). -/
theorem Alert.ok_iff (a : Alert) : a.ok = true ↔ (a.source = .system → a.code.toNat ≤ 5) ∧
    (1 ≤ a.occurrences ∧ a.occurrences ≤ 255) ∧ a.message.length ≤ 32 := by
  unfold Alert.ok
  cases a.source <;> simp [and_assoc]

/-- Records that keep their places, sources, codes and ranges keep the laws. -/
theorem ListLaws.map {l : List Alert} (h : ListLaws l) {f : Alert → Alert}
    (hkey : ∀ a ∈ l, ((f a).source, (f a).code) = (a.source, a.code)) (hok : ∀ a ∈ l, a.ok = true → (f a).ok = true) :
    ListLaws (l.map f) where
  count := by
    have hport : ∀ a ∈ l, (Alert.ofPort ∘ f) a = a.ofPort := fun a ha => by
      rw [Function.comp_apply, Alert.ofPort, Alert.ofPort, (Prod.mk.inj (hkey a ha)).1]
    rw [portCount, List.filter_map, List.length_map, List.filter_congr hport]
    exact h.count
  keys := by
    rw [uniqueKeys, List.map_map]
    exact (List.map_congr_left hkey).symm ▸ h.keys
  each := by
    intro b hb
    obtain ⟨a, ha, rfl⟩ := List.mem_map.mp hb
    exact hok a ha (h.each a ha)

/-- Records removed leave the laws. -/
theorem ListLaws.filter {l : List Alert} (h : ListLaws l) (p : Alert → Bool) : ListLaws (l.filter p) where
  count := (List.filter_sublist.filter _).length_le.trans h.count
  keys := h.keys.sublist (List.filter_sublist.map _)
  each := fun a ha => h.each a (List.mem_filter.mp ha).1

/-- A record of a new source and code stands last, where a port's still has room (R91, R96). -/
theorem ListLaws.append {l : List Alert} (h : ListLaws l) {a : Alert} (hok : a.ok = true)
    (hnew : (a.source, a.code) ∉ l.map fun b => (b.source, b.code))
    (hroom : a.source ≠ .system → portCount l < 32) : ListLaws (l ++ [a]) where
  count := by
    have hcount := h.count
    rw [portCount, List.filter_append, List.length_append]
    change portCount l + _ ≤ 32
    by_cases hport : a.source = .system
    · rw [List.filter_singleton, Alert.ofPort, hport]
      exact hcount
    · have hone : ([a].filter Alert.ofPort).length ≤ 1 := List.length_filter_le _ _
      have hlt := hroom hport
      omega
  keys := by
    rw [uniqueKeys, List.map_append, List.map_singleton, List.nodup_append]
    refine ⟨h.keys, List.nodup_singleton _, fun k hk j hj => ?_⟩
    rw [List.mem_singleton.mp hj]
    exact fun heq => hnew (heq ▸ hk)
  each := by
    intro b hb
    rcases List.mem_append.mp hb with hb | hb
    · exact h.each b hb
    · rw [List.mem_singleton.mp hb]
      exact hok

/-! ### The operations (R95 to R109) -/

/-- The operation keeps the laws of the alert list. -/
def KeepsList (f : State → State) : Prop := ∀ s : State, s.alertsOk = true → (f s).alertsOk = true

theorem KeepsList.comp {f g : State → State} (hf : KeepsList f) (hg : KeepsList g) : KeepsList fun s => g (f s) :=
  fun s h => hg _ (hf s h)

theorem keepsList_foldl {α : Type} (l : List α) {f : State → α → State} (h : ∀ a, KeepsList fun s => f s a) :
    KeepsList fun s => l.foldl f s := by
  induction l with
  | nil => exact fun _ h => h
  | cons a l ih => exact fun s hs => ih _ (h a s hs)

/-- A change of one record in its place that leaves its source, code and ranges. -/
theorem State.alertsOk_changeRecord {s : State} (h : s.alertsOk = true) {src : Source} {code : Byte}
    {f : Alert → Alert} (hkey : ∀ a ∈ s.alerts, a.isFor src code = true → (f a).source = src ∧ (f a).code = code)
    (hok : ∀ a ∈ s.alerts, a.isFor src code = true → a.ok = true → (f a).ok = true) :
    (s.changeRecord src code f).alertsOk = true := by
  rw [State.alertsOk_iff] at h ⊢
  refine h.map (fun a ha => ?_) fun a ha haok => ?_
  · split_ifs with hfor
    · obtain ⟨hsource, hcode⟩ := hkey a ha hfor
      obtain ⟨hs, hc⟩ := isFor_iff.mp hfor
      rw [hsource, hcode, hs, hc]
    · rfl
  · split_ifs with hfor
    · exact hok a ha hfor haok
    · exact haok

theorem State.alertsOk_removeRecord {s : State} (h : s.alertsOk = true) (src : Source) (code : Byte) :
    (s.removeRecord src code).alertsOk = true := by
  rw [State.alertsOk_iff] at h ⊢
  exact h.filter _

/-- The record found is put back changed in its state, its mark of silence or its shelving alone. -/
theorem State.alertsOk_replaceRecord {s : State} (h : s.alertsOk = true) {src : Source} {code : Byte} {a : Alert}
    (ha : s.record src code = some a) (st : AlertState) (sh : Option (BitVec 32)) :
    (s.changeRecord src code fun _ => { a with state := st, shelved := sh }).alertsOk = true := by
  have hok : a.ok = true := ((State.alertsOk_iff s).mp h).each a (List.mem_of_find?_eq_some ha)
  have hkey : a.source = src ∧ a.code = code := State.record_isFor ha
  exact State.alertsOk_changeRecord h (fun _ _ _ => hkey) fun _ _ _ _ => hok

theorem keepsList_clear (src : Source) (code : Byte) : KeepsList (State.clear src code) := fun s h => by
  unfold State.clear
  split
  · exact h
  · next a ha =>
    split
    · exact State.alertsOk_replaceRecord h ha _ a.shelved
    · exact State.alertsOk_removeRecord h src code
    · exact h

theorem keepsList_acknowledge (by_ : Acker) (src : Source) (code : Byte) :
    KeepsList (State.acknowledge by_ src code) := fun s h => by
  unfold State.acknowledge
  split
  · exact h
  · next a ha =>
    split
    · exact State.alertsOk_replaceRecord h ha _ a.shelved
    · exact State.alertsOk_removeRecord h src code
    · exact h

theorem keepsList_shelve (src : Source) (code : Byte) (n : Nat) : KeepsList (State.shelve src code n) := fun s h => by
  unfold State.shelve
  split
  · exact h
  · next a ha => exact State.alertsOk_replaceRecord h ha a.state _

theorem keepsList_unshelve (src : Source) (code : Byte) : KeepsList (State.unshelve src code) := fun s h => by
  unfold State.unshelve
  split
  · exact h
  · next a ha =>
    split
    · exact h
    · exact State.alertsOk_replaceRecord h ha a.state _

theorem keepsList_checkOverflow (n : Nat) : KeepsList (State.checkOverflow n) := fun s h => by
  unfold State.checkOverflow
  split_ifs
  · exact keepsList_clear _ _ s h
  · exact h

theorem keepsList_clearPort (p : PortId) : KeepsList (State.clearPort p) := fun s h =>
  keepsList_checkOverflow _ _ (keepsList_foldl _ (fun c => keepsList_clear (.port p) c) s h)

theorem keepsList_acknowledgeEligible : KeepsList State.acknowledgeEligible := fun s h =>
  keepsList_checkOverflow _ _
    (keepsList_foldl _ (fun (k : Source × Byte) => keepsList_acknowledge .key k.1 k.2) s h)

theorem keepsList_acknowledgeFirst : KeepsList State.acknowledgeFirst := fun s h => by
  unfold State.acknowledgeFirst
  split
  · exact h
  · exact keepsList_checkOverflow _ _ (keepsList_acknowledge _ _ _ s h)

theorem keepsList_unshelveExpired : KeepsList State.unshelveExpired := fun s h =>
  keepsList_foldl _ (fun (k : Source × Byte) => keepsList_unshelve k.1 k.2) s h

theorem keepsList_silenceAll : KeepsList State.silenceAll := fun s h => by
  rw [State.alertsOk_iff] at h ⊢
  refine h.map (fun a _ => ?_) fun a _ haok => ?_
  · split_ifs <;> rfl
  · split_ifs
    · exact haok
    · exact haok

theorem keepsList_silenceEnded (src : Source) (code : Byte) : KeepsList (State.silenceEnded src code) := fun s h => by
  refine State.alertsOk_changeRecord h (fun a _ hfor => ?_) fun a _ _ haok => ?_
  · split_ifs
    · exact isFor_iff.mp hfor
    · exact isFor_iff.mp hfor
  · split_ifs
    · exact haok
    · exact haok

/-! ### Raises (R95 to R97) -/

/-- A re-raise leaves the source and code, counts the occurrence up to 255, and takes the message carried. -/
theorem Alert.ok_reraised {a : Alert} (h : a.ok = true) {x : RaiseArgs} (hmessage : x.message.length ≤ 32) :
    (a.reraised x).ok = true := by
  obtain ⟨hcode, hcount, _⟩ := a.ok_iff.mp h
  rw [Alert.reraised_eq stampZero, Alert.ok_iff]
  refine ⟨hcode, ?_, hmessage⟩
  change 1 ≤ min 255 (a.occurrences + 1) ∧ min 255 (a.occurrences + 1) ≤ 255
  omega

/-- A raise keeps the laws where its code and message are in range and a new port record has room (R91, R96). -/
theorem State.alertsOk_raise {s : State} (h : s.alertsOk = true) {src : Source} {code : Byte} {x : RaiseArgs}
    (hcode : src = .system → code.toNat ≤ 5) (hmessage : x.message.length ≤ 32)
    (hroom : src ≠ .system → s.record src code = none → portCount s.alerts < 32) :
    (s.raise src code x).alertsOk = true := by
  cases hr : s.record src code with
  | none =>
    have hlist := (State.alertsOk_iff s).mp h
    rw [State.alertsOk_iff, State.raise_alerts_of_new hr]
    have hok : (newAlert src code x s.now).ok = true :=
      (Alert.ok_iff _).mpr ⟨hcode, ⟨le_rfl, (by decide : (1 : Nat) ≤ 255)⟩, hmessage⟩
    refine hlist.append hok (fun hmem => ?_) fun hp => hroom hp hr
    obtain ⟨b, hb, hkey⟩ := List.mem_map.mp hmem
    exact List.find?_eq_none.mp hr b hb (isFor_iff.mpr (Prod.mk.inj hkey))
  | some a =>
    refine State.alertsOk_of_alerts (s := s.changeRecord src code (Alert.reraised x))
      (State.raise_alerts_of_present hr x)
      (State.alertsOk_changeRecord h (fun b _ hfor => ?_) fun _ _ _ hbok => Alert.ok_reraised hbok hmessage)
    exact isFor_iff.mp ((b.reraised_isFor x src code).trans hfor)

/-- The records of the system have their fixed codes and messages (R92). -/
theorem keepsList_raiseSystem {code : Byte} (hcode : code.toNat ≤ 5) (severity : Severity) {message : List Byte}
    (hmessage : message.length ≤ 32) :
    KeepsList (State.raise .system code (systemArgs severity message)) := fun _ h =>
  State.alertsOk_raise h (fun _ => hcode) hmessage fun hport => absurd rfl hport

theorem keepsList_raisePortLost (p : PortId) : KeepsList (State.raisePortLost p) :=
  keepsList_raiseSystem (by fin_cases p <;> decide) _ (Nat.le_of_lt_succ (by decide : 16 < 33))

theorem keepsList_raiseDriveFault : KeepsList State.raiseDriveFault := keepsList_raiseSystem (by decide) _ (by decide)

theorem keepsList_raiseListOverflow : KeepsList State.raiseListOverflow :=
  keepsList_raiseSystem (by decide) _ (by decide)

end Sys2Proof.Machine
end

section
/-!
PROOF. What one event keeps of the small laws: the ranges of the time, the list, the tones, the band and the chimes, and
what plays. The Sounder's choice at its end then keeps the law of the sounder too (R139).
-/

namespace Sys2Proof.Machine

/-! ### The laws kept from one state to another -/

/-- The laws of the time, the alert list, the tones, the band height and the chime queue go on. -/
structure State.RangesKept (s t : State) : Prop where
  time : s.time.ok = true → t.time.ok = true
  list : s.alertsOk = true → t.alertsOk = true
  tones : s.tonesOk = true → t.tonesOk = true
  band : s.bandOk = true → t.bandOk = true
  chimes : s.chimesOk = true → t.chimesOk = true

/-- What plays: the source and the entry of the pattern, none in silence (R141). -/
def State.playing (s : State) : Option (SoundSource × ToneId) := s.pattern.map fun pt => (pt.source, pt.entry)

theorem State.soundOk_iff (s : State) : s.soundOk = true ↔ s.playing = s.selectSource := decide_eq_true_iff

/-- The changes of one event, before the Sounder's choice: what plays goes on. -/
structure State.EventKept (s t : State) : Prop extends State.RangesKept s t where
  playing : t.playing = s.playing

/-- Every small law goes on. -/
structure State.LawsKept (s t : State) : Prop extends State.RangesKept s t where
  sound : s.soundOk = true → t.soundOk = true

theorem State.RangesKept.trans {s t u : State} (h : s.RangesKept t) (g : t.RangesKept u) : s.RangesKept u where
  time := g.time ∘ h.time
  list := g.list ∘ h.list
  tones := g.tones ∘ h.tones
  band := g.band ∘ h.band
  chimes := g.chimes ∘ h.chimes

theorem State.EventKept.trans {s t u : State} (h : s.EventKept t) (g : t.EventKept u) : s.EventKept u :=
  ⟨h.toRangesKept.trans g.toRangesKept, g.playing.trans h.playing⟩

theorem State.LawsKept.trans {s t u : State} (h : s.LawsKept t) (g : t.LawsKept u) : s.LawsKept u :=
  ⟨h.toRangesKept.trans g.toRangesKept, g.sound ∘ h.sound⟩

theorem State.EventKept.refl (s : State) : s.EventKept s := ⟨⟨id, id, id, id, id⟩, rfl⟩

theorem State.LawsKept.refl (s : State) : s.LawsKept s := ⟨⟨id, id, id, id, id⟩, id⟩

theorem State.tonesOk_of_eq {s t : State} (h : t.tones = s.tones) (hs : s.tonesOk = true) : t.tonesOk = true := by
  unfold State.tonesOk at hs ⊢
  rwa [h]

theorem State.chimesOk_of_eq {s t : State} (h : t.chimes = s.chimes) (hs : s.chimesOk = true) : t.chimesOk = true := by
  unfold State.chimesOk at hs ⊢
  rwa [h]

/-- An event of another block: of the parts the small laws read it may change the list alone. -/
theorem State.EventKept.of_list {s t : State} (htime : t.time = s.time) (htones : t.tones = s.tones)
    (hband : t.bandHeight = s.bandHeight) (hchimes : t.chimes = s.chimes) (hpattern : t.pattern = s.pattern)
    (hlist : s.alertsOk = true → t.alertsOk = true) : s.EventKept t where
  time := fun h => by rwa [htime]
  list := hlist
  tones := State.tonesOk_of_eq htones
  band := (State.bandOk_of_height hband).trans
  chimes := State.chimesOk_of_eq hchimes
  playing := by rw [State.playing, State.playing, hpattern]

theorem State.EventKept.of_eq {s t : State} (htime : t.time = s.time) (halerts : t.alerts = s.alerts)
    (htones : t.tones = s.tones) (hband : t.bandHeight = s.bandHeight) (hchimes : t.chimes = s.chimes)
    (hpattern : t.pattern = s.pattern) : s.EventKept t :=
  .of_list htime htones hband hchimes hpattern (State.alertsOk_of_alerts halerts)

/-- An event that leaves what the sounder reads keeps its law. -/
theorem State.EventKept.laws {s t : State} (h : s.EventKept t) (halerts : t.alerts = s.alerts)
    (htest : t.panelTest = s.panelTest) (hchimes : t.chimes = s.chimes) : s.LawsKept t :=
  ⟨h.toRangesKept, fun hs => by
    rw [State.soundOk_iff] at hs ⊢
    rw [h.playing, hs, State.selectSource, State.selectSource, halerts, htest, hchimes]⟩

/-! ### The Sounder's choice (R139, R140) -/

/-- The chimes that a choice leaves are those there were, or all but the first. -/
theorem State.chooseSource_chimes_sublist (s : State) : s.chooseSource.chimes.Sublist s.chimes := by
  unfold State.chooseSource
  split
  · exact List.Sublist.refl _
  · split
    · exact List.Sublist.refl _
    · split_ifs
      · exact List.Sublist.refl _
      · exact List.Sublist.refl _
      · exact List.tail_sublist _
      · exact List.Sublist.refl _

theorem State.chimesOk_iff (s : State) : s.chimesOk = true ↔ s.chimes.length ≤ 4 ∧ ∀ n ∈ s.chimes, n ≠ 0 := by
  unfold State.chimesOk
  rw [Bool.and_eq_true, decide_eq_true_eq, List.all_eq_true]
  simp only [decide_eq_true_eq, ne_eq, Fin.ext_iff, Fin.val_zero]

theorem State.chimesOk_of_sublist {s t : State} (h : t.chimes.Sublist s.chimes) (hs : s.chimesOk = true) :
    t.chimesOk = true := by
  rw [State.chimesOk_iff] at hs ⊢
  exact ⟨h.length_le.trans hs.1, fun n hn => hs.2 n (h.subset hn)⟩

theorem State.rangesKept_chooseSource (s : State) : s.RangesKept s.chooseSource where
  time := fun h => by rwa [State.chooseSource_time]
  list := State.alertsOk_of_alerts s.chooseSource_alerts
  tones := State.tonesOk_of_eq s.chooseSource_tones
  band := (State.bandOk_of_height s.chooseSource_bandHeight).trans
  chimes := State.chimesOk_of_sublist s.chooseSource_chimes_sublist

theorem State.RangesKept.chosen {s t : State} (h : s.RangesKept t) : s.LawsKept t.chooseSource :=
  ⟨h.trans t.rangesKept_chooseSource, fun _ => t.soundOk_chooseSource⟩

theorem State.RangesKept.heard {s t : State} (h : s.RangesKept t) (b : State) : s.RangesKept (b.heardSince t) := by
  unfold State.heardSince
  split_ifs
  · exact h
  · exact h.trans t.rangesKept_chooseSource

/-- The choice after an event keeps every small law. -/
theorem State.EventKept.heard {s t : State} (h : s.EventKept t) : s.LawsKept (s.heardSince t) := by
  unfold State.heardSince
  split_ifs with hsame
  · exact h.laws hsame.1 hsame.2.1 hsame.2.2
  · exact h.toRangesKept.chosen

theorem State.LawsKept.heard {s t : State} (h : s.LawsKept t) (b : State) : s.LawsKept (b.heardSince t) := by
  unfold State.heardSince
  split_ifs
  · exact h
  · exact h.toRangesKept.chosen

/-! ### Operations that are part of an event -/

/-- The operation, as part of an event, keeps the ranges and what plays. -/
def KeepsEvent (f : State → State) : Prop := ∀ s : State, s.EventKept (f s)

theorem KeepsEvent.comp {f g : State → State} (hf : KeepsEvent f) (hg : KeepsEvent g) : KeepsEvent fun s => g (f s) :=
  fun s => (hf s).trans (hg (f s))

/-- The operation after what already kept the laws. -/
theorem KeepsEvent.after {g : State → State} (hg : KeepsEvent g) {s u : State} (h : s.EventKept u) :
    s.EventKept (g u) := h.trans (hg u)

theorem keepsEvent_modifyPort (p : PortId) (f : PortUnit → PortUnit) : KeepsEvent (State.modifyPort p f) :=
  fun _ => .of_eq rfl rfl rfl rfl rfl rfl

theorem keepsEvent_endWaits (st : Status) (ends : WindowId → Bool) : KeepsEvent (State.endWaits st ends) :=
  fun _ => .of_eq rfl rfl rfl rfl rfl rfl

theorem keepsEvent_compositorEvent (before : View) (ns : List TileId) :
    KeepsEvent (State.compositorEvent before ns) := fun _ => .of_eq rfl rfl rfl rfl rfl rfl

/-- A change of the list that keeps its laws, and the banner derived again (R127). -/
theorem State.eventKept_listChange {f : State → State} (hf : ListOnly f) {s : State}
    (hk : s.alertsOk = true → (f s).alertsOk = true) : s.EventKept (s.listChange f) :=
  .of_list (s.listChange_time hf) (s.listChange_tones hf) (s.listChange_bandHeight hf) (s.listChange_chimes hf)
    (s.listChange_pattern hf) hk

theorem keepsEvent_setRail (r : RailState) : KeepsEvent (State.setRail r) := fun _ => .of_eq rfl rfl rfl rfl rfl rfl

theorem keepsEvent_arbiter : KeepsEvent State.arbiter := fun s =>
  .of_eq (by simp) (by simp) (by simp) (by simp) (by simp) (by simp)

theorem keepsEvent_checkHold : KeepsEvent State.checkHold := fun s =>
  .of_eq (by simp) (by simp) (by simp) (by simp) (by simp) (by simp)

theorem keepsEvent_reachOn : KeepsEvent State.reachOn := fun s => by
  have hattempts : s.EventKept (s.setAttempts 0) := .of_eq rfl rfl rfl rfl rfl rfl
  have hcleared : s.EventKept ((s.setAttempts 0).listChange (State.clear .system driveFaultCode)) :=
    hattempts.trans (State.eventKept_listChange (listOnly_clear _ _) (keepsList_clear _ _ _))
  exact keepsEvent_checkHold.after (keepsEvent_arbiter.after ((keepsEvent_setRail _).after hcleared))

theorem keepsEvent_enterRising : KeepsEvent State.enterRising := fun s => by
  unfold State.enterRising
  split_ifs
  · exact keepsEvent_reachOn s
  · exact keepsEvent_setRail _ s

theorem keepsEvent_driveReact : KeepsEvent State.driveReact := fun s => by
  unfold State.driveReact
  split
  · split_ifs
    · exact keepsEvent_enterRising s
    · exact .refl s
  · exact keepsEvent_arbiter.comp keepsEvent_checkHold s
  · exact .refl s

theorem keepsEvent_composed (before : View) (ns : List TileId) : KeepsEvent (State.composed before ns) :=
  (keepsEvent_compositorEvent before ns).comp keepsEvent_driveReact

theorem State.eventKept_listEvent {f : State → State} (hf : ListOnly f) {s : State}
    (hk : s.alertsOk = true → (f s).alertsOk = true) : s.EventKept (s.listEvent f) := by
  unfold State.listEvent
  split_ifs
  · exact .of_list (by rw [hf.time]) (hf.tones s) (hf.bandHeight s) (hf.chimes s) (hf.pattern s) hk
  · exact (State.eventKept_listChange hf hk).trans (keepsEvent_driveReact _)

theorem keepsEvent_listEvent {f : State → State} (hf : ListOnly f) (hk : KeepsList f) :
    KeepsEvent (State.listEvent f) := fun s => State.eventKept_listEvent hf (hk s)

/-- A change of the test flags (R7, R156). -/
theorem keepsEvent_testChange {f : State → State} (hf : KeepsEvent f) : KeepsEvent (State.testChange f) := fun s => by
  unfold State.testChange
  split_ifs
  · exact hf s
  · exact (hf s).trans (keepsEvent_composed _ _ _)

theorem keepsEvent_setRemoteTest (b : Bool) : KeepsEvent (State.setRemoteTest b) :=
  keepsEvent_testChange fun _ => .of_eq rfl rfl rfl rfl rfl rfl

theorem keepsEvent_setBlank (b : Bool) : KeepsEvent (State.setBlank b) := fun s => by
  unfold State.setBlank
  split_ifs
  · exact .refl s
  · exact (keepsEvent_composed _ _).after (.of_eq rfl rfl rfl rfl rfl rfl)

theorem keepsEvent_releaseRole (p : PortId) : KeepsEvent (State.releaseRole p) := fun s => by
  unfold State.releaseRole
  split_ifs
  · exact (keepsEvent_setRemoteTest false).after (.of_eq rfl rfl rfl rfl rfl rfl)
  · exact .refl s

theorem keepsEvent_closeWindows (is : List WindowId) : KeepsEvent (State.closeWindows is) := fun s => by
  unfold State.closeWindows
  split_ifs
  · exact .refl s
  · exact (keepsEvent_composed _ _).after (.of_eq rfl rfl rfl rfl rfl rfl)

theorem keepsEvent_markTiles (ns : List TileId) (which : TileRec → Bool) : KeepsEvent (State.markTiles ns which) :=
  fun _ => keepsEvent_driveReact.after (.of_eq rfl rfl rfl rfl rfl rfl)

/-- A window entry is written, and tiles are re-evaluated. -/
theorem keepsEvent_setEntry_composed (i : WindowId) (e : Option Window) (before : View) (ns : List TileId) :
    KeepsEvent fun s => (s.setEntry i e).composed before ns := fun _ =>
  (keepsEvent_composed _ _).after (.of_eq rfl rfl rfl rfl rfl rfl)

/-- The loss of a port (R187). -/
theorem keepsEvent_losePort (p : PortId) : KeepsEvent (State.losePort p) := fun s => by
  have hrole := (keepsEvent_modifyPort p PortUnit.lose).comp (keepsEvent_releaseRole p) s
  unfold State.losePort
  cases decide (s.ports[p].lossAction = .close) with
  | true =>
    exact (hrole.trans (keepsEvent_closeWindows _ _)).trans (keepsEvent_listEvent
      ((listOnly_clearPort p).comp (listOnly_raisePortLost p))
      ((keepsList_clearPort p).comp (keepsList_raisePortLost p)) _)
  | false => exact hrole.trans (keepsEvent_listEvent (listOnly_raisePortLost p) (keepsList_raisePortLost p) _)

/-! ### Operations that keep every small law -/

/-- The operation keeps every small law. -/
def KeepsLaws (f : State → State) : Prop := ∀ s : State, s.LawsKept (f s)

theorem KeepsLaws.comp {f g : State → State} (hf : KeepsLaws f) (hg : KeepsLaws g) : KeepsLaws fun s => g (f s) :=
  fun s => (hf s).trans (hg (f s))

theorem keepsLaws_modifyPort (p : PortId) (f : PortUnit → PortUnit) : KeepsLaws (State.modifyPort p f) :=
  fun s => (keepsEvent_modifyPort p f s).laws rfl rfl rfl

theorem keepsLaws_reply (p : PortId) (tag : Byte) (rc : RequestCode) (r : Reply) :
    KeepsLaws (State.reply p tag rc r) := fun s => by
  cases r with
  | none => exact .refl s
  | some x => exact keepsLaws_modifyPort p _ s

theorem keepsLaws_finish : KeepsLaws State.finish := fun s =>
  (State.EventKept.of_eq rfl rfl rfl rfl rfl rfl : s.EventKept s.finish).laws rfl rfl rfl

/-- An event taken whole keeps every small law. -/
theorem KeepsEvent.whole {f : State → State} (hf : KeepsEvent f) : KeepsLaws (State.whole f) := fun s =>
  (hf s).heard.trans (keepsLaws_finish _)

/-- So does one whose changes end with a choice of their own. -/
theorem KeepsLaws.whole {f : State → State} (hf : KeepsLaws f) : KeepsLaws (State.whole f) := fun s =>
  ((hf s).heard s).trans (keepsLaws_finish _)

end Sys2Proof.Machine
end

section
/-!
PROOF. The small laws through the events: the tick, each event a tick can leave due, and the events of the rail.
-/

namespace Sys2Proof.Machine

/-! ### The time (R162 to R165) -/

/-- An event of the time: of the parts the small laws read it changes the time alone. -/
theorem State.EventKept.of_time {s t : State} (htime : s.time.ok = true → t.time.ok = true)
    (halerts : t.alerts = s.alerts) (htones : t.tones = s.tones) (hband : t.bandHeight = s.bandHeight)
    (hchimes : t.chimes = s.chimes) (hplaying : t.playing = s.playing) : s.EventKept t where
  time := htime
  list := State.alertsOk_of_alerts halerts
  tones := State.tonesOk_of_eq htones
  band := (State.bandOk_of_height hband).trans
  chimes := State.chimesOk_of_eq hchimes
  playing := hplaying

theorem TimeBase.ok_iff (t : TimeBase) : t.ok = true ↔ xor t.phase t.blinkDue = decide (t.tick.val < 32) := by
  rw [TimeBase.ok, beq_iff_eq]

/-- The half of the second changes with the ticks 31 and 63 (R165). -/
theorem firstHalf_succ : ∀ tick : Fin 64, decide ((tick + 1).val < 32) =
    xor (decide (tick.val < 32)) (decide (tick = 63 ∨ tick = 31)) := by decide

theorem TimeBase.ok_advance {t : TimeBase} (h : t.ok = true) : t.advance.ok = true := by
  rw [TimeBase.ok_iff] at h ⊢
  change xor t.phase (xor t.blinkDue (decide (t.tick = 63 ∨ t.tick = 31))) = decide ((t.tick + 1).val < 32)
  rw [firstHalf_succ, ← h, Bool.xor_assoc]

theorem State.playing_tick (s : State) (ack silence test : Bool) : (s.tick ack silence test).playing = s.playing :=
  Option.map_map _ _ _

theorem keepsLaws_tick (ack silence test : Bool) : KeepsLaws (State.tick ack silence test) := fun s =>
  (State.EventKept.of_time TimeBase.ok_advance rfl rfl rfl rfl (s.playing_tick ack silence test) :
    s.EventKept (s.tick ack silence test)).laws rfl rfl rfl

theorem keepsEvent_takeSecond : KeepsEvent State.takeSecond := fun s => by
  cases hdue : s.time.secondDue with
  | true =>
    rw [State.takeSecond_of_due hdue]
    exact .of_time id rfl rfl rfl rfl rfl
  | false =>
    rw [State.takeSecond_of_not_due hdue]
    exact .refl s

theorem State.eventKept_phaseToggled {s : State} (h : s.time.blinkDue = true) : s.EventKept s.phaseToggled :=
  .of_time (fun hok => by
    rw [TimeBase.ok_iff, h, Bool.xor_true] at hok
    rw [TimeBase.ok_iff]
    exact (Bool.xor_false _).trans hok) rfl rfl rfl rfl rfl

theorem keepsEvent_takeBlink : KeepsEvent State.takeBlink := fun s => by
  cases hdue : s.time.blinkDue with
  | true =>
    rw [State.takeBlink_of_due hdue]
    exact (keepsEvent_composed _ _).after (State.eventKept_phaseToggled hdue)
  | false =>
    rw [State.takeBlink_of_not_due hdue]
    exact .refl s

/-! ### Jobs, marks and the rail (R55 to R65, R76 to R83) -/

theorem keepsEvent_setAttempts (n : Nat) : KeepsEvent (State.setAttempts n) := fun _ =>
  .of_eq rfl rfl rfl rfl rfl rfl

theorem keepsEvent_completeJob (e : EngineId) : KeepsEvent (State.completeJob e) := fun s => by
  unfold State.completeJob
  split
  · split_ifs
    · unfold State.finishJob
      simp only
      split_ifs
      · exact keepsEvent_driveReact.after (.of_eq rfl rfl rfl rfl rfl rfl)
      · exact keepsEvent_driveReact.after (.of_eq rfl rfl rfl rfl rfl rfl)
    · exact .refl s
  · exact .refl s

theorem keepsEvent_abandonJobs : KeepsEvent State.abandonJobs := fun s =>
  List.foldlRecOn (motive := s.EventKept) engineIds _ (.refl s) fun u hu e _ => hu.trans (by
    unfold State.abandonJob
    split
    · exact .refl u
    · exact .of_eq rfl rfl rfl rfl rfl rfl)

theorem keepsEvent_expireRefresh : KeepsEvent State.expireRefresh := fun s => by
  unfold State.expireRefresh
  split_ifs
  · exact (keepsEvent_markTiles _ _).after (.of_eq rfl rfl rfl rfl rfl rfl)
  · exact .refl s

theorem keepsEvent_raiseDriveFault : KeepsEvent (State.listEvent State.raiseDriveFault) :=
  keepsEvent_listEvent listOnly_raiseDriveFault keepsList_raiseDriveFault

theorem keepsEvent_expireRise : KeepsEvent State.expireRise := fun s => by
  unfold State.expireRise
  split
  · simp only
    split_ifs
    · exact keepsEvent_raiseDriveFault.after (.of_eq rfl rfl rfl rfl rfl rfl)
    · exact keepsEvent_raiseDriveFault.after (.of_eq rfl rfl rfl rfl rfl rfl)
    · exact .of_eq rfl rfl rfl rfl rfl rfl
    · exact .of_eq rfl rfl rfl rfl rfl rfl
  · exact .refl s

theorem keepsEvent_expireHold : KeepsEvent State.expireHold := fun s => by
  unfold State.expireHold
  split
  · exact keepsEvent_setRail _ s
  · exact .refl s

theorem keepsEvent_expireFall : KeepsEvent State.expireFall := fun s => by
  unfold State.expireFall
  split
  · exact keepsEvent_driveReact.after (keepsEvent_setRail _ s)
  · exact .refl s

theorem keepsEvent_expireRetry : KeepsEvent State.expireRetry := fun s => by
  unfold State.expireRetry
  split
  · exact keepsEvent_enterRising s
  · exact .refl s

theorem keepsEvent_assertPowerGood : KeepsEvent State.assertPowerGood := fun s => by
  unfold State.assertPowerGood
  simp only
  split
  · exact keepsEvent_reachOn.after (.of_eq rfl rfl rfl rfl rfl rfl)
  · exact .of_eq rfl rfl rfl rfl rfl rfl

theorem keepsEvent_losePowerGood : KeepsEvent State.losePowerGood := fun s => by
  have hlevel : s.EventKept { s with powerGood := false } := .of_eq rfl rfl rfl rfl rfl rfl
  unfold State.losePowerGood
  simp only
  split_ifs
  · exact keepsEvent_raiseDriveFault.after ((keepsEvent_setRail _).after
      ((keepsEvent_setAttempts 1).after (keepsEvent_abandonJobs.after hlevel)))
  · exact hlevel

theorem keepsEvent_jobStart : KeepsEvent fun s => s.handOne.checkHold := fun _ =>
  keepsEvent_checkHold.after (.of_eq (by simp) (by simp) (by simp) (by simp) (by simp) (by simp))

/-! ### The keys (R152 to R156) -/

theorem keepsEvent_pressAck : KeepsEvent State.pressAck := fun s => by
  unfold State.pressAck
  split_ifs
  · exact (keepsEvent_listEvent listOnly_acknowledgeFirst keepsList_acknowledgeFirst).after
      (.of_eq rfl rfl rfl rfl rfl rfl)
  · exact .refl s

theorem keepsEvent_releaseAck : KeepsEvent State.releaseAck := fun s => by
  unfold State.releaseAck
  split_ifs
  · exact .of_eq rfl rfl rfl rfl rfl rfl
  · exact .refl s

theorem keepsEvent_holdAck : KeepsEvent State.holdAck := fun s => by
  unfold State.holdAck
  split_ifs
  · exact (keepsEvent_listEvent listOnly_acknowledgeEligible keepsList_acknowledgeEligible).after
      (.of_eq rfl rfl rfl rfl rfl rfl)
  · exact .refl s

theorem keepsEvent_releaseSilence : KeepsEvent State.releaseSilence := fun s => by
  unfold State.releaseSilence
  split_ifs
  · exact .of_eq rfl rfl rfl rfl rfl rfl
  · exact .refl s

theorem keepsEvent_takeTest : KeepsEvent State.takeTest :=
  keepsEvent_testChange fun _ => .of_eq rfl rfl rfl rfl rfl rfl

theorem keepsEvent_pressTest : KeepsEvent State.pressTest := fun s => by
  unfold State.pressTest
  split_ifs
  · exact keepsEvent_takeTest s
  · exact .refl s

theorem keepsEvent_releaseTest : KeepsEvent State.releaseTest := fun s => by
  unfold State.releaseTest
  split_ifs
  · exact keepsEvent_takeTest s
  · exact .refl s

/-- A press of SILENCE empties the chime queue and silences, then the source is chosen (R155). -/
theorem keepsLaws_pressSilence : KeepsLaws State.pressSilence := fun s => by
  unfold State.pressSilence
  split_ifs
  · have hchimes : s.RangesKept { s.takeSilence with chimes := [] } :=
      ⟨id, State.alertsOk_of_alerts rfl, id, id, State.chimesOk_of_sublist (List.nil_sublist _)⟩
    have hsilenced := State.eventKept_listChange listOnly_silenceAll
      (keepsList_silenceAll { s.takeSilence with chimes := [] })
    exact (hchimes.trans (keepsEvent_driveReact.after hsilenced).toRangesKept).chosen
  · exact .refl s

/-! ### The sounder (R141 to R143) -/

/-- The pattern goes on with its source and entry. -/
theorem State.lawsKept_setPattern {s : State} {pt : Pattern} (h : s.playing = some (pt.source, pt.entry)) :
    s.LawsKept (s.setPattern pt) :=
  (State.EventKept.of_time id rfl rfl rfl rfl h.symm : s.EventKept (s.setPattern pt)).laws rfl rfl rfl

/-- A finite pattern's end: what follows it is chosen (R139, R143). -/
theorem State.lawsKept_endPattern {s : State} {pt : Pattern} (h : s.playing = some (pt.source, pt.entry)) :
    s.LawsKept (s.endPattern pt) := by
  unfold State.endPattern
  split
  · exact State.lawsKept_setPattern (pt := { pt with phase := .ended }) h
  · next src code _ =>
    have hended : s.RangesKept { s with pattern := none } := ⟨id, State.alertsOk_of_alerts rfl, id, id, id⟩
    have hsilenced := State.eventKept_listChange (listOnly_silenceEnded src code)
      (keepsList_silenceEnded src code { s with pattern := none })
    exact (hended.trans (keepsEvent_driveReact.after hsilenced).toRangesKept).chosen
  · have hdropped : s.RangesKept s.dropChime :=
      ⟨id, State.alertsOk_of_alerts rfl, id, id, State.chimesOk_of_sublist (List.tail_sublist _)⟩
    exact hdropped.chosen

theorem keepsLaws_endPeriod : KeepsLaws State.endPeriod := fun s => by
  unfold State.endPeriod
  split
  · exact .refl s
  · next pt hpt =>
    have hplays : s.playing = some (pt.source, pt.entry) := by rw [State.playing, hpt, Option.map_some]
    simp only
    split
    · split_ifs
      · exact State.lawsKept_setPattern hplays
      · exact State.lawsKept_endPattern hplays
      · exact State.lawsKept_setPattern hplays
    · split_ifs
      · exact State.lawsKept_endPattern hplays
      · exact State.lawsKept_setPattern hplays
    · exact .refl s

/-! ### Shelvings, losses and waits (R109, R186, R190) -/

theorem keepsEvent_unshelveExpired : KeepsEvent (State.listEvent State.unshelveExpired) :=
  keepsEvent_listEvent listOnly_unshelveExpired keepsList_unshelveExpired

theorem keepsEvent_expireShelving : KeepsEvent State.expireShelving := fun s => by
  unfold State.expireShelving
  split_ifs
  · exact keepsEvent_unshelveExpired.after (.of_eq rfl rfl rfl rfl rfl rfl)
  · exact .refl s

theorem keepsEvent_loseIfDue (p : PortId) : KeepsEvent (State.loseIfDue p) := fun s => by
  unfold State.loseIfDue
  split_ifs
  · exact keepsEvent_losePort p s
  · exact .refl s

theorem keepsEvent_timeOutWait (p : PortId) : KeepsEvent (State.timeOutWait p) := fun s => by
  unfold State.timeOutWait
  split_ifs
  · exact keepsEvent_modifyPort p _ s
  · exact .refl s

/-! ### Due events taken (log 2) -/

/-- Every due event, taken whole, keeps every small law. -/
theorem keepsLaws_due (d : Due) : KeepsLaws (State.whole d.act) := by
  cases d with
  | completion e => exact (keepsEvent_completeJob e).whole
  | rise => exact keepsEvent_expireRise.whole
  | hold => exact keepsEvent_expireHold.whole
  | fall => exact keepsEvent_expireFall.whole
  | retry => exact keepsEvent_expireRetry.whole
  | period => exact keepsLaws_endPeriod.whole
  | ackPress => exact keepsEvent_pressAck.whole
  | ackRelease => exact keepsEvent_releaseAck.whole
  | ackHold => exact keepsEvent_holdAck.whole
  | silencePress => exact keepsLaws_pressSilence.whole
  | silenceRelease => exact keepsEvent_releaseSilence.whole
  | testPress => exact keepsEvent_pressTest.whole
  | testRelease => exact keepsEvent_releaseTest.whole
  | second => exact keepsEvent_takeSecond.whole
  | blink => exact keepsEvent_takeBlink.whole
  | shelving => exact keepsEvent_expireShelving.whole
  | refresh => exact keepsEvent_expireRefresh.whole
  | loss p => exact (keepsEvent_loseIfDue p).whole
  | waitEnd p => exact (keepsEvent_timeOutWait p).whole

theorem keepsLaws_settle : KeepsLaws State.settle := fun s =>
  State.settle_induct (P := s.LawsKept)
    (fun u n hu => hu.trans ((State.EventKept.of_eq rfl rfl rfl rfl rfl rfl :
      u.EventKept { u with choices := n }).laws rfl rfl rfl))
    (fun u d _ hu => hu.trans (keepsLaws_due d u)) (.refl s)

theorem keepsLaws_lossFirst (p : PortId) : KeepsLaws (State.lossFirst p) := fun s => by
  unfold State.lossFirst
  split_ifs
  · exact (keepsEvent_losePort p).whole s
  · exact .refl s

theorem keepsLaws_secondFirst (p : PortId) : KeepsLaws (State.secondFirst p) := fun s => by
  have hsecond : s.LawsKept (if s.time.secondDue then s.whole State.takeSecond else s) := by
    split_ifs
    · exact keepsEvent_takeSecond.whole s
    · exact .refl s
  exact hsecond.trans (keepsLaws_lossFirst p _)

theorem keepsLaws_expiryFirst : KeepsLaws State.expiryFirst := fun s => by
  unfold State.expiryFirst
  split_ifs
  · exact keepsEvent_expireRefresh.whole s
  · exact .refl s

end Sys2Proof.Machine
end

section
/-!
PROOF. What the events a tick leaves due keep, that a SET_TIME taken after them rests on (log 8): a record that is not
shelved stays so, DRIVE_FAULT is not raised unless the rail stays in FAULT, and a port goes on as it was or is LOST.
-/

namespace Sys2Proof.Machine

/-! ### Records: shelvings and DRIVE_FAULT -/

/-- No shelved record stands under the source and code. -/
def State.Unshelved (s : State) (src : Source) (code : Byte) : Prop := ∀ a ∈ s.record src code, a.shelved = none

/-- The record is in ringback. -/
def Alert.lowered (a : Alert) : Prop := ∃ stamp, a.state = .clearedUnack stamp

/-- DRIVE_FAULT is not raised: absent, or in ringback. -/
def State.FaultLowered (s : State) : Prop := ∀ a ∈ s.record .system driveFaultCode, a.lowered

/-- No record is shelved, and DRIVE_FAULT not raised, that was not before. -/
structure State.RecordsKept (s t : State) : Prop where
  unshelved : ∀ src code, s.Unshelved src code → t.Unshelved src code
  lowered : s.FaultLowered → t.FaultLowered

theorem State.RecordsKept.trans {s t u : State} (h : s.RecordsKept t) (g : t.RecordsKept u) : s.RecordsKept u :=
  ⟨fun src code => g.unshelved src code ∘ h.unshelved src code, g.lowered ∘ h.lowered⟩

theorem State.RecordsKept.of_record {s t : State} (h : ∀ src code, t.record src code = s.record src code) :
    s.RecordsKept t where
  unshelved := fun src code hs => by
    unfold State.Unshelved
    rwa [h]
  lowered := fun hs => by
    unfold State.FaultLowered
    rwa [h]

theorem State.RecordsKept.refl (s : State) : s.RecordsKept s := .of_record fun _ _ => rfl

theorem State.RecordsKept.of_alerts {s t : State} (h : t.alerts = s.alerts) : s.RecordsKept t :=
  .of_record (State.record_of_alerts h)

/-- A change of the record under one source and code. -/
theorem State.RecordsKept.of_one {s t : State} {src : Source} {code : Byte} {r : Option Alert}
    (h : ∀ src' code', t.record src' code' = if (src', code') = (src, code) then r else s.record src' code')
    (hu : s.Unshelved src code → ∀ a ∈ r, a.shelved = none)
    (hl : (src, code) = (.system, driveFaultCode) → s.FaultLowered → ∀ a ∈ r, a.lowered) : s.RecordsKept t where
  unshelved := fun src' code' hs => by
    unfold State.Unshelved
    rw [h]
    split_ifs with hkey
    · obtain ⟨rfl, rfl⟩ := Prod.mk.inj hkey
      exact hu hs
    · exact hs
  lowered := fun hs => by
    unfold State.FaultLowered
    rw [h]
    split_ifs with hkey
    · exact hl hkey.symm hs
    · exact hs

/-- What becomes of a record keeps its shelving and leaves a lowered one lowered. -/
def KeepsRecord (g : Option Alert → Option Alert) : Prop :=
  ∀ r, ∀ b ∈ g r, ∃ a ∈ r, (a.shelved = none → b.shelved = none) ∧ (a.lowered → b.lowered)

theorem KeepsRecord.shelved {g : Option Alert → Option Alert} (hg : KeepsRecord g) {r : Option Alert}
    (h : ∀ a ∈ r, a.shelved = none) : ∀ b ∈ g r, b.shelved = none := fun b hb =>
  have ⟨a, ha, hab⟩ := hg r b hb
  hab.1 (h a ha)

theorem KeepsRecord.lowered {g : Option Alert → Option Alert} (hg : KeepsRecord g) {r : Option Alert}
    (h : ∀ a ∈ r, a.lowered) : ∀ b ∈ g r, b.lowered := fun b hb =>
  have ⟨a, ha, hab⟩ := hg r b hb
  hab.2 (h a ha)

theorem State.RecordsKept.of_keepsRecord {s t : State} {src : Source} {code : Byte} {g : Option Alert → Option Alert}
    (hg : KeepsRecord g) (h : ∀ src' code', t.record src' code' =
      if (src', code') = (src, code) then g (s.record src code) else s.record src' code') : s.RecordsKept t :=
  .of_one h hg.shelved fun hkey hs => by
    obtain ⟨rfl, rfl⟩ := Prod.mk.inj hkey
    exact hg.lowered hs

/-- A record that is not lowered has nothing to keep of it. -/
theorem Alert.not_lowered {a : Alert} {st : AlertState} (h : a.state = st)
    (hst : ∀ stamp, st ≠ .clearedUnack stamp) : ¬a.lowered := fun ⟨stamp, hs⟩ => hst stamp (h.symm.trans hs)

theorem keepsRecord_afterClear (now : Stamp) : KeepsRecord (afterClear now) := by
  rintro (_ | a) b hb
  · exact absurd hb (by simp [afterClear])
  · refine ⟨a, rfl, ?_⟩
    cases hs : a.state with
    | activeUnack =>
      simp only [afterClear, hs, Option.mem_def, Option.some.injEq] at hb
      exact ⟨fun h => hb ▸ h, fun h => absurd h (Alert.not_lowered hs (by simp))⟩
    | activeAck _ _ => simp [afterClear, hs] at hb
    | clearedUnack _ =>
      simp only [afterClear, hs, Option.mem_def, Option.some.injEq] at hb
      exact hb ▸ ⟨id, id⟩

theorem keepsRecord_afterAck (by_ : Acker) (now : Stamp) : KeepsRecord (afterAck by_ now) := by
  rintro (_ | a) b hb
  · exact absurd hb (by simp [afterAck])
  · refine ⟨a, rfl, ?_⟩
    cases hs : a.state with
    | activeUnack =>
      simp only [afterAck, hs, Option.mem_def, Option.some.injEq] at hb
      exact ⟨fun h => hb ▸ h, fun h => absurd h (Alert.not_lowered hs (by simp))⟩
    | activeAck _ _ =>
      simp only [afterAck, hs, Option.mem_def, Option.some.injEq] at hb
      exact hb ▸ ⟨id, id⟩
    | clearedUnack _ => simp [afterAck, hs] at hb

/-- A change of each record in its place. -/
theorem keepsRecord_map {f : Alert → Alert} (hu : ∀ a : Alert, a.shelved = none → (f a).shelved = none)
    (hl : ∀ a : Alert, (f a).state = a.state) : KeepsRecord (Option.map f) := fun _ _ hb => by
  obtain ⟨a, ha, rfl⟩ := Option.mem_map.mp hb
  exact ⟨a, ha, hu a, fun ⟨stamp, hs⟩ => ⟨stamp, (hl a).trans hs⟩⟩

/-! ### The list's operations -/

/-- The operation shelves no record and does not raise DRIVE_FAULT. -/
def KeepsRecords (f : State → State) : Prop := ∀ s : State, s.RecordsKept (f s)

theorem KeepsRecords.comp {f g : State → State} (hf : KeepsRecords f) (hg : KeepsRecords g) :
    KeepsRecords fun s => g (f s) := fun s => (hf s).trans (hg (f s))

theorem keepsRecords_foldl {α : Type} (l : List α) {f : State → α → State} (h : ∀ a, KeepsRecords fun s => f s a) :
    KeepsRecords fun s => l.foldl f s := by
  induction l with
  | nil => exact .refl
  | cons a l ih => exact (h a).comp ih

theorem keepsRecords_clear (src : Source) (code : Byte) : KeepsRecords (State.clear src code) := fun s =>
  .of_keepsRecord (keepsRecord_afterClear s.now) (s.clear_record src code)

theorem keepsRecords_acknowledge (by_ : Acker) (src : Source) (code : Byte) :
    KeepsRecords (State.acknowledge by_ src code) := fun s =>
  .of_keepsRecord (keepsRecord_afterAck by_ s.now) (s.acknowledge_record by_ src code)

theorem keepsRecords_unshelve (src : Source) (code : Byte) : KeepsRecords (State.unshelve src code) := fun s =>
  .of_keepsRecord (keepsRecord_map (f := fun a => { a with shelved := none }) (fun _ _ => rfl) fun _ => rfl)
    (s.unshelve_record src code)

theorem Alert.silencedIfActive_kept (a : Alert) :
    a.silencedIfActive.shelved = a.shelved ∧ a.silencedIfActive.state = a.state := by
  unfold Alert.silencedIfActive
  split_ifs <;> exact ⟨rfl, rfl⟩

theorem keepsRecord_silencedIfActive : KeepsRecord (Option.map Alert.silencedIfActive) :=
  keepsRecord_map (fun a h => a.silencedIfActive_kept.1.trans h) fun a => a.silencedIfActive_kept.2

theorem keepsRecords_silenceEnded (src : Source) (code : Byte) : KeepsRecords (State.silenceEnded src code) := fun s =>
  .of_keepsRecord keepsRecord_silencedIfActive (s.silenceEnded_record src code)

theorem State.silenceAll_record (s : State) (src : Source) (code : Byte) :
    s.silenceAll.record src code = (s.record src code).map Alert.silencedIfActive := by
  unfold State.record
  change List.find? _ (s.alerts.map Alert.silencedIfActive) = _
  rw [List.find?_map]
  congr 2
  funext a
  unfold Alert.silencedIfActive
  rw [Function.comp_apply]
  split_ifs <;> rfl

theorem keepsRecords_silenceAll : KeepsRecords State.silenceAll := fun s => by
  refine ⟨fun src code hs => ?_, fun hs => ?_⟩
  · unfold State.Unshelved
    rw [State.silenceAll_record]
    exact keepsRecord_silencedIfActive.shelved hs
  · unfold State.FaultLowered
    rw [State.silenceAll_record]
    exact keepsRecord_silencedIfActive.lowered hs

theorem keepsRecords_checkOverflow (n : Nat) : KeepsRecords (State.checkOverflow n) := fun s => by
  unfold State.checkOverflow
  split_ifs
  · exact keepsRecords_clear _ _ s
  · exact .refl s

theorem keepsRecords_clearPort (p : PortId) : KeepsRecords (State.clearPort p) := fun s =>
  (keepsRecords_foldl _ (fun c => keepsRecords_clear (.port p) c)).comp (keepsRecords_checkOverflow _) s

theorem keepsRecords_acknowledgeEligible : KeepsRecords State.acknowledgeEligible := fun s =>
  (keepsRecords_foldl _ (fun (k : Source × Byte) => keepsRecords_acknowledge .key k.1 k.2)).comp
    (keepsRecords_checkOverflow _) s

theorem keepsRecords_acknowledgeFirst : KeepsRecords State.acknowledgeFirst := fun s => by
  unfold State.acknowledgeFirst
  split
  · exact .refl s
  · exact (keepsRecords_acknowledge _ _ _).comp (keepsRecords_checkOverflow _) s

theorem keepsRecords_unshelveExpired : KeepsRecords State.unshelveExpired := fun s =>
  keepsRecords_foldl _ (fun (k : Source × Byte) => keepsRecords_unshelve k.1 k.2) s

/-- A raise shelves nothing. -/
theorem afterRaise_shelved {now : Stamp} {src : Source} {code : Byte} {x : RaiseArgs} {r : Option Alert}
    (h : ∀ a ∈ r, a.shelved = none) : (afterRaise now src code x r).shelved = none := by
  cases r with
  | none => rfl
  | some a =>
    exact h a rfl

theorem State.unshelved_raise {s : State} (src : Source) (code : Byte) (x : RaiseArgs) {src' : Source} {code' : Byte}
    (h : s.Unshelved src' code') : (s.raise src code x).Unshelved src' code' := by
  unfold State.Unshelved
  rw [State.raise_record]
  split_ifs with hkey
  · obtain ⟨rfl, rfl⟩ := Prod.mk.inj hkey
    rintro b ⟨⟩
    exact afterRaise_shelved h
  · exact h

theorem keepsRecords_raisePortLost (p : PortId) : KeepsRecords (State.raisePortLost p) := fun s => by
  have hcode : (Source.system, driveFaultCode) ≠ (.system, portLostCode p) := by fin_cases p <;> decide
  refine ⟨fun src code => s.unshelved_raise _ _ _, fun hs => ?_⟩
  unfold State.FaultLowered State.raisePortLost
  rwa [State.raise_record, if_neg hcode]

end Sys2Proof.Machine
end

section
/-!
PROOF. Every due event keeps what the part before says of the records, and what a port's request still to be taken rests
on: its port goes on in its state and with its role, without a wait or a response of its own anew, or is LOST.
-/

namespace Sys2Proof.Machine

/-! ### A Port Unit that goes on -/

/-- The Port Unit is in the state it was in and, where it did not wait, waits for nothing and has the responses it
had. -/
structure PortUnit.GoesOn (u v : PortUnit) : Prop where
  state : v.state = u.state
  calm : u.wait = none → v.wait = none ∧ v.responses = u.responses

/-- The Port Unit is LOST with its wait and its responses. -/
structure PortUnit.Gone (u : PortUnit) : Prop where
  state : u.state = .lost
  wait : u.wait = none
  responses : u.responses = []

theorem PortUnit.GoesOn.refl (u : PortUnit) : u.GoesOn u := ⟨rfl, fun h => ⟨h, rfl⟩⟩

theorem PortUnit.GoesOn.trans {u v w : PortUnit} (h : u.GoesOn v) (g : v.GoesOn w) : u.GoesOn w where
  state := g.state.trans h.state
  calm := fun hu =>
    have hv := h.calm hu
    have hw := g.calm hv.1
    ⟨hw.1, hw.2.trans hv.2⟩

theorem PortUnit.Gone.goesOn {u v : PortUnit} (h : u.Gone) (g : u.GoesOn v) : v.Gone where
  state := g.state.trans h.state
  wait := (g.calm h.wait).1
  responses := (g.calm h.wait).2.trans h.responses

theorem PortUnit.takeNotice_state (q : PortId) (n : Notice) (u : PortUnit) : (u.takeNotice q n).state = u.state := by
  obtain ⟨c, ns, f, h⟩ := PortUnit.takeNotice_frame q n u
  rw [h]

theorem PortUnit.noticed_state (q : PortId) (ns : List Notice) (u : PortUnit) : (u.noticed q ns).state = u.state := by
  unfold PortUnit.noticed
  induction ns generalizing u with
  | nil => rfl
  | cons n ns ih => rw [List.foldl_cons, ih, PortUnit.takeNotice_state]

theorem PortUnit.endsWait.goesOn {closed : WindowId → Prop} {q : PortId} {ns : List Notice} {u v : PortUnit}
    (h : (u.noticed q ns).endsWait closed v) : u.GoesOn v := by
  obtain ⟨hwait, hresponses⟩ := PortUnit.noticed_kept q ns u
  rcases h with rfl | ⟨w, st, hw, _, rfl⟩
  · exact ⟨u.noticed_state q ns, fun hu => ⟨hwait.trans hu, hresponses⟩⟩
  · exact ⟨u.noticed_state q ns, fun hu => by simp [← hwait, hw] at hu⟩

theorem PortUnit.goesOn_endWait (st : Status) (u : PortUnit) : u.GoesOn (u.endWait st) := by
  unfold PortUnit.endWait
  split
  · exact .refl u
  · next w hw => exact ⟨rfl, fun hu => by simp [hw] at hu⟩

theorem PortUnit.goesOn_countSecond (u : PortUnit) : u.GoesOn u.countSecond :=
  ⟨rfl, fun h => ⟨Option.map_eq_none_iff.mpr h, rfl⟩⟩

theorem PortUnit.goesOn_startTx (u : PortUnit) : u.GoesOn u.startTx :=
  ⟨u.startTx_state, fun h => ⟨u.startTx_wait.trans h, u.startTx_responses⟩⟩

theorem PortUnit.gone_lose (u : PortUnit) : u.lose.Gone := ⟨rfl, rfl, rfl⟩

/-- Port `p` goes on, as supervisor if it was, or is LOST. -/
def State.PortKept (s t : State) (p : PortId) : Prop :=
  (s.ports[p].GoesOn t.ports[p] ∧ (s.supervisor = some p → t.supervisor = some p)) ∨ t.ports[p].Gone

theorem State.PortKept.trans {s t u : State} {p : PortId} (h : s.PortKept t p) (g : t.PortKept u p) :
    s.PortKept u p := by
  rcases g with ⟨hgo, hrole⟩ | hgone
  · rcases h with ⟨hgo', hrole'⟩ | hgone'
    · exact Or.inl ⟨hgo'.trans hgo, hrole ∘ hrole'⟩
    · exact Or.inr (hgone'.goesOn hgo)
  · exact Or.inr hgone

theorem State.PortKept.of_port {s t : State} {p : PortId} (h : s.ports[p].GoesOn t.ports[p])
    (hr : t.supervisor = s.supervisor) : s.PortKept t p := Or.inl ⟨h, hr.trans⟩

/-! ### What a due event keeps -/

/-- The rail is in FAULT, its retry timer running. -/
def State.Grounded (s : State) : Prop := ∃ n, s.rail.state = .fault (some (n + 1))

/-- What the events a tick leaves due keep, for a request that is taken after them. -/
structure State.DueKept (s t : State) : Prop where
  unshelved : ∀ src code, s.Unshelved src code → t.Unshelved src code
  lowered : s.FaultLowered → t.FaultLowered ∨ t.Grounded
  grounded : s.Grounded → t.Grounded
  port : ∀ p, s.PortKept t p

theorem State.DueKept.trans {s t u : State} (h : s.DueKept t) (g : t.DueKept u) : s.DueKept u where
  unshelved := fun src code => g.unshelved src code ∘ h.unshelved src code
  lowered := fun hs => (h.lowered hs).elim g.lowered fun ht => Or.inr (g.grounded ht)
  grounded := g.grounded ∘ h.grounded
  port := fun p => (h.port p).trans (g.port p)

theorem State.DueKept.of_records {s t : State} (h : s.RecordsKept t) (hg : s.Grounded → t.Grounded)
    (hp : ∀ p, s.PortKept t p) : s.DueKept t := ⟨h.unshelved, Or.inl ∘ h.lowered, hg, hp⟩

theorem State.grounded_of_rail {s t : State} (h : t.rail = s.rail) (hs : s.Grounded) : t.Grounded := by
  unfold State.Grounded
  rwa [h]

/-- A change of the Port Units and of what none of this reads. -/
theorem State.DueKept.of_ports {s t : State} (ha : t.alerts = s.alerts) (hr : t.rail = s.rail)
    (hs : t.supervisor = s.supervisor) (hp : ∀ p : PortId, s.ports[p].GoesOn t.ports[p]) : s.DueKept t :=
  .of_records (.of_alerts ha) (State.grounded_of_rail hr) fun p => .of_port (hp p) hs

theorem State.DueKept.of_eq {s t : State} (ha : t.alerts = s.alerts) (hr : t.rail = s.rail)
    (hs : t.supervisor = s.supervisor) (hp : t.ports = s.ports) : s.DueKept t :=
  .of_ports ha hr hs fun p => by
    rw [hp]
    exact .refl _

theorem State.DueKept.refl (s : State) : s.DueKept s := .of_eq rfl rfl rfl rfl

/-- The clearing of DRIVE_FAULT at a rise of the rail (R78). -/
theorem State.RecordsKept.of_faultCleared {s t : State} (hk : s.keepsRecords t)
    (hf : t.record .system driveFaultCode = afterClear s.now (s.record .system driveFaultCode)) : s.RecordsKept t :=
  .of_keepsRecord (src := .system) (code := driveFaultCode) (keepsRecord_afterClear s.now) fun src code => by
    split_ifs with hkey
    · obtain ⟨rfl, rfl⟩ := Prod.mk.inj hkey
      exact hf
    · exact hk src code hkey

/-- A composition event and the drive's answer: DRIVE_FAULT may be cleared, and the rail leaves FAULT by its timer
alone. -/
theorem State.drawnTo.dueKept {s t : State} (h : s.drawnTo t) : s.DueKept t := by
  obtain ⟨hframe, _, _, hrail, hrecords, hrest⟩ := h
  have hgrounded : s.Grounded → t.Grounded := by
    rintro ⟨n, hn⟩
    unfold State.railFollows at hrail
    rw [hn] at hrail
    exact State.grounded_of_rail hrail ⟨n, hn⟩
  have hsupervisor : t.supervisor = s.supervisor := by rw [hframe]
  have hport {ns : List Notice} (hn : s.handed t ns) (p : PortId) : s.PortKept t p := .of_port (hn p).goesOn hsupervisor
  split_ifs at hrest with hrises
  · obtain ⟨hfault, hhanded⟩ := hrest
    exact .of_records (.of_faultCleared hrecords hfault) hgrounded (hport hhanded)
  · obtain ⟨halerts, _, _, hhanded⟩ := hrest
    exact .of_records (.of_alerts halerts) hgrounded (hport hhanded)

/-! ### Operations of due events -/

/-- The operation keeps what a request taken after it rests on. -/
def KeepsDue (f : State → State) : Prop := ∀ s : State, s.DueKept (f s)

theorem KeepsDue.comp {f g : State → State} (hf : KeepsDue f) (hg : KeepsDue g) : KeepsDue fun s => g (f s) :=
  fun s => (hf s).trans (hg (f s))

theorem KeepsDue.after {g : State → State} (hg : KeepsDue g) {s u : State} (h : s.DueKept u) : s.DueKept (g u) :=
  h.trans (hg u)

theorem keepsDue_finish : KeepsDue State.finish := fun s =>
  .of_ports rfl rfl rfl fun p => by
    rw [Fin.getElem_fin, Fin.getElem_fin, State.finish_port]
    exact PortUnit.goesOn_startTx _

theorem keepsDue_chooseSource : KeepsDue State.chooseSource := fun s => .of_eq (by simp) (by simp) (by simp) (by simp)

theorem keepsDue_heardSince (b : State) : KeepsDue (State.heardSince b) := fun s =>
  .of_eq (by simp) (by simp) (by simp) (by simp)

theorem KeepsDue.whole {f : State → State} (hf : KeepsDue f) : KeepsDue (State.whole f) := fun s =>
  keepsDue_finish.after ((keepsDue_heardSince s).after (hf s))

theorem keepsDue_driveReact : KeepsDue State.driveReact := fun s => s.drawnTo_driveReact.dueKept

theorem keepsDue_composed (before : View) (ns : List TileId) : KeepsDue (State.composed before ns) := fun s =>
  (s.drawnTo_composed before ns).dueKept

/-- A change of the list that shelves nothing and does not raise DRIVE_FAULT. -/
theorem keepsDue_of_records {f : State → State} (hf : HandsOnly f) (hr : KeepsRecords f) : KeepsDue f := fun s =>
  .of_records (hr s) (State.grounded_of_rail (hf.1.rail s)) fun p =>
    have ⟨_, hn⟩ := hf.2 s
    .of_port (hn p).goesOn (hf.1.supervisor s)

theorem State.DueKept.listChange_driveReact {f : State → State} {s : State} (h : s.DueKept (f s)) :
    s.DueKept (s.listChange f).driveReact := (keepsDue_composed s.view bandTiles).after h

/-- What follows the change of the list at a list event. -/
theorem State.dueKept_ofChange (f : State → State) (s : State) : (f s).DueKept (s.listEvent f) := by
  unfold State.listEvent
  split_ifs
  · exact .refl _
  · exact keepsDue_composed s.view bandTiles (f s)

theorem State.DueKept.listEvent {f : State → State} {s : State} (h : s.DueKept (f s)) : s.DueKept (s.listEvent f) :=
  h.trans (State.dueKept_ofChange f s)

theorem keepsDue_listEvent {f : State → State} (hf : HandsOnly f) (hr : KeepsRecords f) :
    KeepsDue (State.listEvent f) := fun s => (keepsDue_of_records hf hr s).listEvent

theorem keepsDue_setRemoteTest (b : Bool) : KeepsDue (State.setRemoteTest b) := fun s => by
  unfold State.setRemoteTest State.testChange
  split_ifs
  · exact .of_eq rfl rfl rfl rfl
  · exact (keepsDue_composed _ _).after (.of_eq rfl rfl rfl rfl)

theorem keepsDue_takeTest : KeepsDue State.takeTest := fun s => by
  unfold State.takeTest State.testChange
  split_ifs
  · exact .of_eq rfl rfl rfl rfl
  · exact (keepsDue_composed _ _).after (.of_eq rfl rfl rfl rfl)

theorem keepsDue_closeWindows (is : List WindowId) : KeepsDue (State.closeWindows is) := fun s => by
  unfold State.closeWindows
  split_ifs
  · exact .refl s
  · refine (keepsDue_composed _ _).after (.of_ports rfl rfl rfl fun p => ?_)
    rw [Fin.getElem_fin, Fin.getElem_fin, State.endWaits_port]
    split
    · split_ifs
      · exact PortUnit.goesOn_endWait _ _
      · exact .refl _
    · exact .refl _

/-- The port of a loss is LOST, and the others go on. -/
theorem State.dueKept_lose (s : State) (p : PortId) : s.DueKept (s.modifyPort p PortUnit.lose) :=
  .of_records (.of_alerts rfl) id fun q => by
    unfold State.PortKept
    rw [Fin.getElem_fin, Fin.getElem_fin, State.modifyPort_port]
    split_ifs
    · exact Or.inr (PortUnit.gone_lose _)
    · exact Or.inl ⟨.refl _, id⟩

/-- The role of a LOST port is released. -/
theorem State.dueKept_releaseRole {s : State} {p : PortId} (h : s.ports[p].Gone) : s.DueKept (s.releaseRole p) := by
  unfold State.releaseRole
  split_ifs with hrole
  · refine (keepsDue_setRemoteTest false).after (.of_records (.of_alerts rfl) id fun q => ?_)
    by_cases hq : q = p
    · exact Or.inr (hq ▸ h)
    · exact Or.inl ⟨.refl _, fun hsq => absurd (Option.some.inj (hsq.symm.trans hrole)) hq⟩
  · exact .refl s

/-- The rest of a loss. -/
theorem State.dueKept_afterLose (s : State) (p : PortId) : (s.modifyPort p PortUnit.lose).DueKept (s.losePort p) := by
  have hrole := State.dueKept_releaseRole (s := s.modifyPort p PortUnit.lose) (p := p) (by
    rw [Fin.getElem_fin, State.modifyPort_port_self]
    exact PortUnit.gone_lose _)
  unfold State.losePort
  cases decide (s.ports[p].lossAction = .close) with
  | true =>
    exact (keepsDue_listEvent ((handsOnly_clearPort p).comp (handsOnly_raisePortLost p))
      ((keepsRecords_clearPort p).comp (keepsRecords_raisePortLost p))).after ((keepsDue_closeWindows _).after hrole)
  | false => exact (keepsDue_listEvent (handsOnly_raisePortLost p) (keepsRecords_raisePortLost p)).after hrole

theorem keepsDue_losePort (p : PortId) : KeepsDue (State.losePort p) := fun s =>
  (s.dueKept_lose p).trans (s.dueKept_afterLose p)

theorem State.DueKept.gone {s t : State} (h : s.DueKept t) {p : PortId} (hs : s.ports[p].Gone) : t.ports[p].Gone :=
  (h.port p).elim (fun hgo => hs.goesOn hgo.1) id

theorem State.gone_losePort (s : State) (p : PortId) : (s.losePort p).ports[p].Gone :=
  (s.dueKept_afterLose p).gone (by
    rw [Fin.getElem_fin, State.modifyPort_port_self]
    exact PortUnit.gone_lose _)

/-! ### Each due event -/

theorem keepsDue_completeJob (e : EngineId) : KeepsDue (State.completeJob e) := fun s => by
  unfold State.completeJob
  split
  · next j _ =>
    split_ifs
    · have hhanded := s.handed_jobReported e j
      unfold State.finishJob
      simp only
      split_ifs
      · refine keepsDue_driveReact.after (.of_ports rfl rfl rfl fun p => ?_)
        rw [Fin.getElem_fin, Fin.getElem_fin, State.settledReport, State.endWaits_port]
        split
        · split_ifs
          · exact PortUnit.goesOn_endWait _ _
          · exact .refl _
        · exact .refl _
      · exact keepsDue_driveReact.after (.of_eq rfl rfl rfl rfl)
    · exact .refl s
  · exact .refl s

/-- A raise of DRIVE_FAULT in a state that leaves the rail in FAULT with its retry timer running (R79). -/
theorem State.dueKept_raiseDriveFault {s : State} (hs : s.Grounded) :
    s.DueKept (s.listEvent State.raiseDriveFault) := by
  have hrail : s.raiseDriveFault.Grounded := State.grounded_of_rail (listOnly_raiseDriveFault.rail s) hs
  exact State.DueKept.listEvent {
    unshelved := fun src code => s.unshelved_raise _ _ _
    lowered := fun _ => Or.inr hrail
    grounded := fun _ => hrail
    port := fun p => .of_port (s.handed_raiseDriveFault p).goesOn (listOnly_raiseDriveFault.supervisor s) }

/-- The rail takes another state from one in which no retry timer was running. -/
theorem State.dueKept_setRail {s : State} (h : ¬s.Grounded) (r : Rail) : s.DueKept { s with rail := r } :=
  .of_records (.of_alerts rfl) (fun hs => absurd hs h) fun _ => .of_port (.refl _) rfl

/-- A first failed attempt raises DRIVE_FAULT, and the retry timer starts (R79). -/
theorem keepsDue_expireRise : KeepsDue State.expireRise := fun s => by
  unfold State.expireRise
  split
  · next hrising =>
    have hnot : ¬s.Grounded := fun ⟨n, hn⟩ => absurd (hrising.symm.trans hn) (by simp)
    have hfailed := State.dueKept_setRail hnot ⟨.fault (if s.rail.attempts + 1 < 3 then some 320 else none),
      s.rail.attempts + 1, s.rail.holdSetting⟩
    simp only
    by_cases hfirst : s.rail.attempts = 0
    · rw [if_pos hfirst]
      refine hfailed.trans (State.dueKept_raiseDriveFault ⟨319, ?_⟩)
      show RailState.fault (if s.rail.attempts + 1 < 3 then some 320 else none) = _
      rw [hfirst]
      rfl
    · rw [if_neg hfirst]
      exact hfailed
  · exact .refl s

theorem keepsDue_expireHold : KeepsDue State.expireHold := fun s => by
  unfold State.expireHold
  split
  · next hs => exact State.dueKept_setRail (fun ⟨n, hn⟩ => absurd (hs.symm.trans hn) (by simp)) _
  · exact .refl s

theorem keepsDue_expireFall : KeepsDue State.expireFall := fun s => by
  unfold State.expireFall
  split
  · next hs =>
    exact keepsDue_driveReact.after (State.dueKept_setRail (fun ⟨n, hn⟩ => absurd (hs.symm.trans hn) (by simp)) _)
  · exact .refl s

/-- A rise of the rail: power-good asserted clears DRIVE_FAULT (R77, R78). -/
theorem State.dueKept_enterRising {s : State} (h : ¬s.Grounded) : s.DueKept s.enterRising := by
  have hrisen := s.risenTo_enterRising
  unfold State.risenTo at hrisen
  split_ifs at hrisen
  · obtain ⟨_, _, hfault, hrecords, hhanded, _, _, _, _⟩ := hrisen
    exact .of_records (.of_faultCleared hrecords hfault) (fun hs => absurd hs h) fun p =>
      .of_port (hhanded p).goesOn s.enterRising_supervisor
  · rw [hrisen]
    exact State.dueKept_setRail h _

theorem keepsDue_expireRetry : KeepsDue State.expireRetry := fun s => by
  unfold State.expireRetry
  split
  · next hs => exact State.dueKept_enterRising fun ⟨n, hn⟩ => absurd (hs.symm.trans hn) (by simp)
  · exact .refl s

theorem keepsDue_expireRefresh : KeepsDue State.expireRefresh := fun s => by
  unfold State.expireRefresh
  split_ifs
  · exact keepsDue_driveReact.after (.of_eq rfl rfl rfl rfl)
  · exact .refl s

/-! ### The keys, the sounder, the time and the ports -/

theorem keepsDue_pressAck : KeepsDue State.pressAck := fun s => by
  unfold State.pressAck
  split_ifs
  · exact (keepsDue_listEvent handsOnly_acknowledgeFirst keepsRecords_acknowledgeFirst).after (.of_eq rfl rfl rfl rfl)
  · exact .refl s

theorem keepsDue_releaseAck : KeepsDue State.releaseAck := fun s => by
  unfold State.releaseAck
  split_ifs
  · exact .of_eq rfl rfl rfl rfl
  · exact .refl s

theorem keepsDue_holdAck : KeepsDue State.holdAck := fun s => by
  unfold State.holdAck
  split_ifs
  · exact (keepsDue_listEvent handsOnly_acknowledgeEligible keepsRecords_acknowledgeEligible).after
      (.of_eq rfl rfl rfl rfl)
  · exact .refl s

/-- A silencing, whether or not it changes the list, with the drive's answer and the source chosen. -/
theorem State.DueKept.silenced {s u : State} (h : s.DueKept u) {f : State → State} (hf : HandsOnly f)
    (hr : KeepsRecords f) : s.DueKept (u.listChange f).driveReact.chooseSource :=
  keepsDue_chooseSource.after (h.trans (keepsDue_of_records hf hr u).listChange_driveReact)

theorem keepsDue_pressSilence : KeepsDue State.pressSilence := fun s => by
  unfold State.pressSilence
  split_ifs
  · have htaken : s.DueKept { s.takeSilence with chimes := [] } := .of_eq rfl rfl rfl rfl
    exact htaken.silenced handsOnly_silenceAll keepsRecords_silenceAll
  · exact .refl s

theorem keepsDue_releaseSilence : KeepsDue State.releaseSilence := fun s => by
  unfold State.releaseSilence
  split_ifs
  · exact .of_eq rfl rfl rfl rfl
  · exact .refl s

theorem keepsDue_pressTest : KeepsDue State.pressTest := fun s => by
  unfold State.pressTest
  split_ifs
  · exact keepsDue_takeTest s
  · exact .refl s

theorem keepsDue_releaseTest : KeepsDue State.releaseTest := fun s => by
  unfold State.releaseTest
  split_ifs
  · exact keepsDue_takeTest s
  · exact .refl s

theorem keepsDue_setPattern (pt : Pattern) : KeepsDue (State.setPattern pt) := fun _ => .of_eq rfl rfl rfl rfl

theorem keepsDue_endPattern (pt : Pattern) : KeepsDue (State.endPattern pt) := fun s => by
  unfold State.endPattern
  split
  · exact keepsDue_setPattern _ s
  · next src code _ =>
    have hended : s.DueKept { s with pattern := none } := .of_eq rfl rfl rfl rfl
    exact hended.silenced (handsOnly_silenceEnded src code) (keepsRecords_silenceEnded src code)
  · exact keepsDue_chooseSource.after (.of_eq rfl rfl rfl rfl)

theorem keepsDue_endPeriod : KeepsDue State.endPeriod := fun s => by
  unfold State.endPeriod
  split
  · exact .refl s
  · simp only
    split
    · split_ifs
      · exact keepsDue_setPattern _ s
      · exact keepsDue_endPattern _ s
      · exact keepsDue_setPattern _ s
    · split_ifs
      · exact keepsDue_endPattern _ s
      · exact keepsDue_setPattern _ s
    · exact .refl s

theorem keepsDue_takeSecond : KeepsDue State.takeSecond := fun s => by
  cases hdue : s.time.secondDue with
  | true =>
    rw [State.takeSecond_of_due hdue]
    refine .of_ports rfl rfl rfl fun p => ?_
    simp only [Fin.getElem_fin, Vector.getElem_map]
    exact PortUnit.goesOn_countSecond _
  | false =>
    rw [State.takeSecond_of_not_due hdue]
    exact .refl s

theorem keepsDue_takeBlink : KeepsDue State.takeBlink := fun s => by
  unfold State.takeBlink
  split_ifs
  · exact (keepsDue_composed _ _).after (.of_eq rfl rfl rfl rfl)
  · exact .refl s

theorem keepsDue_expireShelving : KeepsDue State.expireShelving := fun s => by
  unfold State.expireShelving
  split_ifs
  · exact (keepsDue_listEvent handsOnly_unshelveExpired keepsRecords_unshelveExpired).after (.of_eq rfl rfl rfl rfl)
  · exact .refl s

theorem keepsDue_loseIfDue (p : PortId) : KeepsDue (State.loseIfDue p) := fun s => by
  unfold State.loseIfDue
  split_ifs
  · exact keepsDue_losePort p s
  · exact .refl s

theorem keepsDue_timeOutWait (p : PortId) : KeepsDue (State.timeOutWait p) := fun s => by
  unfold State.timeOutWait
  split_ifs
  · refine .of_ports rfl rfl rfl fun q => ?_
    rw [Fin.getElem_fin, Fin.getElem_fin, State.modifyPort_port]
    split_ifs
    · exact PortUnit.goesOn_endWait _ _
    · exact .refl _
  · exact .refl s

/-! ### Due events taken -/

theorem keepsDue_act (d : Due) : KeepsDue d.act := by
  cases d with
  | completion e => exact keepsDue_completeJob e
  | rise => exact keepsDue_expireRise
  | hold => exact keepsDue_expireHold
  | fall => exact keepsDue_expireFall
  | retry => exact keepsDue_expireRetry
  | period => exact keepsDue_endPeriod
  | ackPress => exact keepsDue_pressAck
  | ackRelease => exact keepsDue_releaseAck
  | ackHold => exact keepsDue_holdAck
  | silencePress => exact keepsDue_pressSilence
  | silenceRelease => exact keepsDue_releaseSilence
  | testPress => exact keepsDue_pressTest
  | testRelease => exact keepsDue_releaseTest
  | second => exact keepsDue_takeSecond
  | blink => exact keepsDue_takeBlink
  | shelving => exact keepsDue_expireShelving
  | refresh => exact keepsDue_expireRefresh
  | loss p => exact keepsDue_loseIfDue p
  | waitEnd p => exact keepsDue_timeOutWait p

theorem keepsDue_settle : KeepsDue State.settle := fun s =>
  State.settle_induct (P := s.DueKept) (fun _ _ hu => hu.trans (.of_eq rfl rfl rfl rfl))
    (fun u d _ hu => hu.trans ((keepsDue_act d).whole u)) (.refl s)

end Sys2Proof.Machine
end

section
/-!
PROOF. SET_TIME after the events left due (R168, R170; log 8): the Sounder compares with the list that the request
found, so a list that ends as it was before those events must have been left by SET_TIME as they left it.
-/

namespace Sys2Proof.Machine

/-! ### SET_TIME's own changes -/

/-- The time set, at the start of a second with the phase ON (R168). -/
def State.clockSet (s : State) (seconds : BitVec 32) : State := { s with time := ⟨0, seconds, true, false, false⟩ }

/-- Steps 1 to 3 of R168: the time set, and where the phase was OFF a composition event that re-evaluates every cell. -/
def State.clockStarted (s : State) (seconds : BitVec 32) : State :=
  if s.time.phase then s.clockSet seconds
  else (s.clockSet seconds).composed { s with time := ⟨0, seconds, s.time.phase, false, false⟩ }.view allTiles

theorem State.setTime_eq (s : State) (seconds : BitVec 32) :
    s.setTime seconds = (s.clockStarted seconds).listEvent State.unshelveExpired := by
  unfold State.setTime State.clockStarted
  by_cases hphase : s.time.phase = true
  · simp only [hphase, if_true]
    rfl
  · simp only [hphase]
    rfl

theorem State.eventKept_clockSet (s : State) (seconds : BitVec 32) : s.EventKept (s.clockSet seconds) :=
  .of_time (fun _ => rfl) rfl rfl rfl rfl rfl

theorem State.eventKept_clockStarted (s : State) (seconds : BitVec 32) : s.EventKept (s.clockStarted seconds) := by
  unfold State.clockStarted
  split_ifs
  · exact s.eventKept_clockSet seconds
  · exact (keepsEvent_composed _ _).after (s.eventKept_clockSet seconds)

theorem keepsEvent_setTime (seconds : BitVec 32) : KeepsEvent (State.setTime seconds) := fun s => by
  rw [State.setTime_eq]
  exact keepsEvent_unshelveExpired.after (s.eventKept_clockStarted seconds)

theorem State.dueKept_clockStarted (s : State) (seconds : BitVec 32) : s.DueKept (s.clockStarted seconds) := by
  have hset : s.DueKept (s.clockSet seconds) := .of_eq rfl rfl rfl rfl
  unfold State.clockStarted
  split_ifs
  · exact hset
  · exact (keepsDue_composed _ _).after hset

theorem State.clockStarted_sounder (s : State) (seconds : BitVec 32) :
    (s.clockStarted seconds).panelTest = s.panelTest ∧ (s.clockStarted seconds).chimes = s.chimes := by
  unfold State.clockStarted
  split_ifs
  · exact ⟨rfl, rfl⟩
  · simp only [State.panelTest, State.composed_keys, State.composed_remoteTest, State.composed_chimes]
    exact ⟨rfl, rfl⟩

theorem State.setTime_sounder (s : State) (seconds : BitVec 32) :
    (s.setTime seconds).panelTest = s.panelTest ∧ (s.setTime seconds).chimes = s.chimes := by
  obtain ⟨htest, hchimes⟩ := s.clockStarted_sounder seconds
  rw [State.setTime_eq]
  refine ⟨?_, (State.listEvent_chimes _ listOnly_unshelveExpired).trans hchimes⟩
  rw [← htest]
  simp only [State.panelTest, State.listEvent_keys _ listOnly_unshelveExpired,
    State.listEvent_remoteTest _ listOnly_unshelveExpired]

/-! ### Changes that change nothing -/

theorem State.Unshelved.unshelve {s : State} {src : Source} {code : Byte} (h : s.Unshelved src code) :
    s.unshelve src code = s := by
  cases hr : s.record src code with
  | none =>
    unfold State.unshelve
    rw [hr]
  | some a => exact State.unshelve_of_unshelved hr (h a hr)

theorem State.foldl_unshelve_of_unshelved {s : State} {ks : List (Source × Byte)}
    (h : ∀ k ∈ ks, s.Unshelved k.1 k.2) : ks.foldl (fun t k => t.unshelve k.1 k.2) s = s :=
  List.foldlRecOn (motive := (· = s)) ks _ rfl fun _ hu k hk => by
    rw [hu]
    exact (h k hk).unshelve

theorem State.clear_of_lowered {s : State} (h : s.FaultLowered) : s.clear .system driveFaultCode = s := by
  unfold State.clear
  split
  · rfl
  · next a ha =>
    obtain ⟨stamp, hs⟩ := h a ha
    rw [hs]

/-- No record is shelved that an unshelving of several has named. -/
theorem State.unshelved_foldl_unshelve {ks : List (Source × Byte)} {k : Source × Byte} (hk : k ∈ ks) (s : State) :
    (ks.foldl (fun t k => t.unshelve k.1 k.2) s).Unshelved k.1 k.2 := by
  induction ks generalizing s with
  | nil => exact absurd hk List.not_mem_nil
  | cons j ks ih =>
    rcases List.mem_cons.mp hk with rfl | hk
    · refine (keepsRecords_foldl ks (fun (k : Source × Byte) => keepsRecords_unshelve k.1 k.2) _).unshelved _ _ ?_
      unfold State.Unshelved
      rw [State.unshelve_record, if_pos rfl]
      intro b hb
      obtain ⟨a, _, rfl⟩ := Option.mem_map.mp hb
      rfl
    · exact ih hk _

/-- A cleared DRIVE_FAULT is in ringback or absent. -/
theorem faultLowered_afterClear (now : Stamp) (r : Option Alert) : ∀ b ∈ afterClear now r, b.lowered := by
  cases r with
  | none => exact fun _ hb => absurd hb (by simp [afterClear])
  | some a =>
    intro b hb
    cases hs : a.state with
    | activeUnack =>
      simp only [afterClear, hs, Option.mem_def, Option.some.injEq] at hb
      exact hb ▸ ⟨now, rfl⟩
    | activeAck _ _ => simp [afterClear, hs] at hb
    | clearedUnack stamp =>
      simp only [afterClear, hs, Option.mem_def, Option.some.injEq] at hb
      exact hb ▸ ⟨stamp, hs⟩

theorem State.unshelved_of_alerts {s t : State} (h : t.alerts = s.alerts) {src : Source} {code : Byte}
    (ht : t.Unshelved src code) : s.Unshelved src code := by
  unfold State.Unshelved
  rwa [← State.record_of_alerts h]

theorem State.faultLowered_of_alerts {s t : State} (h : t.alerts = s.alerts) (ht : t.FaultLowered) :
    s.FaultLowered := by
  unfold State.FaultLowered
  rwa [← State.record_of_alerts h]

/-! ### A list that ends as it was before the due events -/

/-- The composition event of step 3 leaves the list as the due events did, if it ends as it was before them: the
clearing of DRIVE_FAULT it may bring is of one that was raised (R78). -/
theorem State.DueKept.clockStarted_alerts {s u : State} (h : s.DueKept u) {seconds : BitVec 32}
    (hsame : (u.clockStarted seconds).alerts = s.alerts) : (u.clockStarted seconds).alerts = u.alerts := by
  unfold State.clockStarted State.composed at hsame ⊢
  split_ifs at hsame ⊢
  · rfl
  · generalize hw : (u.clockSet seconds).compositorEvent _ allTiles = w at hsame ⊢
    have halerts : w.alerts = u.alerts := by
      rw [← hw]
      rfl
    have hrail : w.rail = u.rail := by
      rw [← hw]
      rfl
    rw [State.driveReact_alerts] at hsame ⊢
    split_ifs at hsame ⊢ with hrises
    · have hlowered : s.FaultLowered := State.faultLowered_of_alerts hsame (by
        unfold State.FaultLowered
        rw [State.clear_record, if_pos rfl]
        exact faultLowered_afterClear _ _)
      rcases h.lowered hlowered with hu | ⟨n, hn⟩
      · rw [State.clear_of_lowered (State.faultLowered_of_alerts (t := u) halerts.symm hu), halerts]
      · have hoff : u.rail.state = .off := hrail ▸ hrises.1.1
        exact absurd (hoff.symm.trans hn) (by simp)
    · exact halerts

/-- The unshelvings of step 4 end no shelving, if the list ends as it was before the due events: those shelve no record
that was not. -/
theorem State.DueKept.unshelveExpired_of_same {s a : State} (h : s.DueKept a)
    (hsame : (a.listEvent State.unshelveExpired).alerts = s.alerts) : a.unshelveExpired = a :=
  State.foldl_unshelve_of_unshelved fun k hk => by
    have hnamed : a.unshelveExpired.Unshelved k.1 k.2 := State.unshelved_foldl_unshelve hk a
    have hlast := (State.dueKept_ofChange State.unshelveExpired a).unshelved k.1 k.2 hnamed
    exact h.unshelved k.1 k.2 (State.unshelved_of_alerts hsame hlast)

theorem State.DueKept.setTime_alerts {s u : State} (h : s.DueKept u) {seconds : BitVec 32}
    (hsame : (u.setTime seconds).alerts = s.alerts) : (u.setTime seconds).alerts = u.alerts := by
  rw [State.setTime_eq] at hsame ⊢
  have hnone := (h.trans (u.dueKept_clockStarted seconds)).unshelveExpired_of_same hsame
  have hevent : (u.clockStarted seconds).listEvent State.unshelveExpired = u.clockStarted seconds := by
    unfold State.listEvent
    rw [hnone, if_pos rfl]
  rw [hevent] at hsame ⊢
  exact h.clockStarted_alerts hsame

/-- The law of the sounder after a SET_TIME, where the choice is made at a change since before the due events. -/
theorem State.soundOk_heardSince_setTime {s u : State} (h : s.DueKept u) (hu : u.soundOk = true)
    (seconds : BitVec 32) : (s.heardSince (u.setTime seconds)).soundOk = true := by
  unfold State.heardSince
  split_ifs with hsame
  · obtain ⟨htest, hchimes⟩ := u.setTime_sounder seconds
    exact ((keepsEvent_setTime seconds u).laws (h.setTime_alerts hsame.1) htest hchimes).sound hu
  · exact State.soundOk_chooseSource _

end Sys2Proof.Machine
end

section
/-!
PROOF. The small laws through every request and every row (O56): admission keeps what the request's work keeps, the
requests by the operations they are made of, and the events by `keepsLaws_due`.
-/

namespace Sys2Proof.Machine

/-! ### Admission (R180, R181; log 8) -/

/-- A block's work, as one event, keeps the ranges and what plays. -/
def RunKeepsEvent (run : State → State × Reply) : Prop := ∀ s : State, s.EventKept (run s).1

theorem keepsLaws_refuse (p : PortId) (tag code : Byte) (st : Status) : KeepsLaws (State.refuse p tag code st) :=
  keepsLaws_modifyPort p _

/-- Admission keeps the small laws where the work that it lets run, with the choice after it, keeps them. -/
theorem keepsLaws_admission {p : PortId} {tag : Byte} {rc : RequestCode} {lengthOk inRange sup : Bool}
    {run : State → State × Reply}
    (h : lengthOk = true → inRange = true → ∀ s : State, s.LawsKept (s.heardSince (run s).1)) :
    KeepsLaws (admission p tag rc lengthOk inRange sup run) := fun s => by
  unfold admission
  split_ifs with hattached hlength hrange hsup
  · exact keepsLaws_refuse _ _ _ _ s
  · exact keepsLaws_refuse _ _ _ _ s
  · exact keepsLaws_refuse _ _ _ _ s
  · exact keepsLaws_refuse _ _ _ _ s
  · exact (h (by simpa using hlength) (by simpa using hrange) s).trans (keepsLaws_reply _ _ _ _ _)

theorem keepsLaws_request {p : PortId} {tag : Byte} {rc : RequestCode} {lengthOk inRange sup : Bool}
    {run : State → State × Reply} (h : lengthOk = true → inRange = true → RunKeepsEvent run) :
    KeepsLaws (admission p tag rc lengthOk inRange sup run) :=
  keepsLaws_admission fun hlength hrange s => (h hlength hrange s).heard

/-- Work after the events left due, that leaves what the sounder reads. -/
theorem lawsKept_afterDue {p : PortId} {first : State → State} {run : State → State × Reply} (hf : KeepsLaws first)
    (hr : ∀ t : State, t.LawsKept (run t).1) (s : State) : s.LawsKept (afterDue p first run s).1 := by
  unfold afterDue
  split_ifs
  · exact (hf s).trans (hr _)
  · exact hf s

theorem keepsLaws_badLength (p : PortId) (tag : Byte) (rc : RequestCode) : KeepsLaws (badLength p tag rc) :=
  keepsLaws_request fun _ _ s => .refl s

/-! ### The port requests -/

/-- A second event taken before an ATTACH that finds its port as it was has brought no loss (R167, R187). -/
theorem State.eventKept_secondFirst {s : State} {p : PortId}
    (h : (s.secondFirst p).ports[p].state = s.ports[p].state) :
    s.EventKept (s.secondFirst p) := by
  unfold State.secondFirst at h ⊢
  have hsecond : s.EventKept (if s.time.secondDue then s.whole State.takeSecond else s) := by
    split_ifs
    · rw [State.whole_takeSecond]
      exact (keepsEvent_takeSecond s).trans (.of_eq rfl rfl rfl rfl rfl rfl)
    · exact .refl s
  have hstate : (if s.time.secondDue then s.whole State.takeSecond else s).ports[p].state = s.ports[p].state := by
    split_ifs with hdue
    · rw [State.whole_takeSecond, State.takeSecond_of_due hdue]
      simp only [Fin.getElem_fin, State.finish_port, PortUnit.startTx_state, Vector.getElem_map, PortUnit.countSecond]
    · rfl
  generalize (if s.time.secondDue then s.whole State.takeSecond else s) = u at h hsecond hstate ⊢
  unfold State.lossFirst at h ⊢
  split_ifs at h ⊢ with hdue
  · have hattached : u.ports[p].state = .attached := by
      unfold PortUnit.lossDue at hdue
      simp only [Bool.and_eq_true, decide_eq_true_eq] at hdue
      exact hdue.1
    have hgone : (u.whole (State.losePort p)).ports[p].Gone :=
      (keepsDue_finish.after (keepsDue_heardSince u _)).gone (u.gone_losePort p)
    exact absurd (hgone.state.symm.trans (h.trans (hstate.symm.trans hattached))) (by decide)
  · exact hsecond

theorem keepsEvent_takeRole (p : PortId) (supervisor : Bool) : KeepsEvent (State.takeRole p supervisor) := fun s => by
  unfold State.takeRole
  split_ifs
  · exact .of_eq rfl rfl rfl rfl rfl rfl
  · exact keepsEvent_releaseRole p s

theorem runKeepsEvent_attach (p : PortId) (role keepalive lossAction : Byte) :
    RunKeepsEvent (State.attach p role keepalive lossAction) := fun s => by
  have hrole := (keepsEvent_takeRole p (yes role)).after (keepsEvent_modifyPort p
    (·.attached keepalive.toNat (if yes lossAction then .close else .keep)) s)
  unfold State.attach
  simp only
  split
  · exact (keepsEvent_listEvent (listOnly_clear _ _) (keepsList_clear _ _)).after hrole
  · exact hrole

theorem keepsLaws_reqAttach (p : PortId) (tag role keepalive lossAction : Byte) :
    KeepsLaws (reqAttach p tag role keepalive lossAction) := keepsLaws_admission fun _ _ s => by
  unfold runAttach
  split_ifs
  · exact (State.LawsKept.refl s).heard s
  · unfold afterDue
    split_ifs with hsame
    · exact ((State.eventKept_secondFirst hsame).trans (runKeepsEvent_attach p role keepalive lossAction _)).heard
    · exact (keepsLaws_secondFirst p s).heard s

theorem keepsEvent_clearPort (p : PortId) : KeepsEvent (State.listEvent (State.clearPort p)) :=
  keepsEvent_listEvent (listOnly_clearPort p) (keepsList_clearPort p)

theorem keepsLaws_reqDetach (p : PortId) (tag : Byte) : KeepsLaws (reqDetach p tag) :=
  keepsLaws_request fun _ _ s =>
    (keepsEvent_clearPort p).after ((keepsEvent_closeWindows _).after ((keepsEvent_modifyPort p _).after
      ((keepsEvent_releaseRole p).after (keepsEvent_modifyPort p _ s))))

theorem keepsLaws_reqResetPort (p : PortId) (tag : Byte) : KeepsLaws (reqResetPort p tag) :=
  keepsLaws_request fun _ _ s =>
    (keepsEvent_clearPort p).after ((keepsEvent_closeWindows _).after (keepsEvent_modifyPort p _ s))

theorem keepsLaws_statusArrives (p : PortId) (tag : Byte) (extra : List Byte) :
    KeepsLaws (State.statusArrives p tag extra) := fun s => by
  unfold State.statusArrives
  split_ifs <;> exact keepsLaws_modifyPort p _ s

theorem keepsLaws_reqSetFilter (p : PortId) (tag filter enabled mode av am cv cm : Byte) :
    KeepsLaws (reqSetFilter p tag filter enabled mode av am cv cm) := keepsLaws_request fun _ _ s => by
  unfold runSetFilter
  dsimp only
  exact keepsEvent_modifyPort p _ s

theorem keepsLaws_reqSetNotices (p : PortId) (tag setting : Byte) : KeepsLaws (reqSetNotices p tag setting) :=
  keepsLaws_request fun _ _ s => keepsEvent_modifyPort p _ s

theorem keepsLaws_reqWaitSettled (p : PortId) (tag window timeout : Byte) :
    KeepsLaws (reqWaitSettled p tag window timeout) := keepsLaws_admission fun _ _ s => by
  refine State.LawsKept.heard ?_ s
  unfold runWaitSettled
  split
  · exact .refl s
  · split_ifs
    · exact .refl s
    · exact lawsKept_afterDue (keepsLaws_secondFirst p) (fun t =>
        keepsLaws_modifyPort p (fun u => { u with wait := some ⟨windowOf window, timeout.toNat, 0, tag⟩ }) t) s

/-! ### The window requests -/

theorem keepsLaws_reqOpenWindow (p : PortId) (tag row col height width level : Byte) :
    KeepsLaws (reqOpenWindow p tag row col height width level) := keepsLaws_request fun _ _ s => by
  unfold runOpenWindow
  simp only
  split
  · exact .refl s
  · split_ifs
    · exact .refl s
    · exact .refl s
    · exact .refl s
    · exact keepsEvent_setEntry_composed _ _ _ _ s

theorem keepsLaws_reqCloseWindow (p : PortId) (tag window : Byte) : KeepsLaws (reqCloseWindow p tag window) :=
  keepsLaws_request fun _ _ s => by
    unfold runCloseWindow
    split
    · exact .refl s
    · split_ifs
      · exact .refl s
      · exact keepsEvent_closeWindows [windowOf window] s

theorem keepsEvent_setEntry (i : WindowId) (e : Option Window) : KeepsEvent (State.setEntry i e) := fun _ =>
  .of_eq rfl rfl rfl rfl rfl rfl

theorem keepsLaws_reqMoveWindow (p : PortId) (tag window row col level : Byte) :
    KeepsLaws (reqMoveWindow p tag window row col level) := keepsLaws_request fun _ _ s => by
  unfold runMoveWindow
  simp only
  split
  · exact .refl s
  · split_ifs
    · exact .refl s
    · exact .refl s
    · exact .refl s
    · exact keepsEvent_driveReact.after ((keepsEvent_endWaits _ _).after ((keepsEvent_compositorEvent _ _).after
        (keepsEvent_setEntry _ _ s)))

theorem keepsLaws_reqSetWindow (p : PortId) (tag window visible deferred writers : Byte) :
    KeepsLaws (reqSetWindow p tag window visible deferred writers) := keepsLaws_request fun _ _ s => by
  unfold runSetWindow
  simp only
  split
  · exact .refl s
  · next w _ =>
    by_cases howner : w.owner ≠ p
    · rw [if_pos howner]
      exact .refl s
    · rw [if_neg howner]
      by_cases hspace : (yes deferred && !w.deferred && decide (s.freeCells < w.area)) = true
      · rw [if_pos hspace]
        exact .refl s
      · rw [if_neg hspace]
        simp only
        split_ifs
        · exact keepsEvent_setEntry_composed _ _ _ _ s
        · exact keepsEvent_setEntry _ _ s

theorem keepsEvent_writeContent (i : WindowId) (w : Window) (content : List CellValue) :
    KeepsEvent (State.writeContent i w content) := fun s => by
  unfold State.writeContent
  simp only
  split_ifs
  · exact keepsEvent_setEntry _ _ s
  · exact keepsEvent_setEntry_composed _ _ _ _ s

theorem keepsLaws_reqWriteCells (p : PortId) (tag window row col : Byte) (cells : List Byte) :
    KeepsLaws (reqWriteCells p tag window row col cells) := keepsLaws_request fun _ _ s => by
  unfold runWriteCells
  simp only
  split
  · exact .refl s
  · split_ifs
    · exact .refl s
    · exact .refl s
    · exact keepsEvent_writeContent _ _ _ s

theorem keepsLaws_reqFillCells (p : PortId) (tag window row col height width glyph attr : Byte) :
    KeepsLaws (reqFillCells p tag window row col height width glyph attr) := keepsLaws_request fun _ _ s => by
  unfold runFillCells
  simp only
  split
  · exact .refl s
  · split_ifs
    · exact .refl s
    · exact .refl s
    · exact keepsEvent_writeContent _ _ _ s

theorem keepsLaws_reqReadCells (p : PortId) (tag window row col count : Byte) :
    KeepsLaws (reqReadCells p tag window row col count) := keepsLaws_request fun _ _ s => by
  unfold runReadCells
  split
  · exact .refl s
  · split_ifs
    · exact .refl s
    · exact .refl s

theorem keepsLaws_reqFlush (p : PortId) (tag window : Byte) : KeepsLaws (reqFlush p tag window) :=
  keepsLaws_request fun _ _ s => by
    unfold runFlush
    simp only
    split
    · exact .refl s
    · split_ifs
      · exact .refl s
      · exact keepsEvent_setEntry_composed _ _ _ _ s
      · exact .refl s

/-! ### The drive and rail requests -/

theorem keepsLaws_reqFullRefresh (p : PortId) (tag selector window : Byte) :
    KeepsLaws (reqFullRefresh p tag selector window) := keepsLaws_request fun _ _ s => by
  unfold runFullRefresh
  split_ifs
  · split
    · exact .refl s
    · next w _ => exact keepsEvent_markTiles w.rect.tiles (fun _ => true) s
  · exact keepsEvent_markTiles allTiles (fun _ => true) s

theorem keepsLaws_reqSetRefreshPeriod (p : PortId) (tag minutes : Byte) :
    KeepsLaws (reqSetRefreshPeriod p tag minutes) := keepsLaws_admission fun _ _ s =>
  (lawsKept_afterDue ((keepsLaws_secondFirst p).comp keepsLaws_expiryFirst) (fun t =>
    (State.EventKept.of_eq rfl rfl rfl rfl rfl rfl :
      t.EventKept { t with refreshPeriod := minutes.toNat, refreshCount := 0 }).laws rfl rfl rfl) s).heard s

theorem keepsLaws_reqSetHold (p : PortId) (tag seconds : Byte) : KeepsLaws (reqSetHold p tag seconds) :=
  keepsLaws_request fun _ _ _ => .of_eq rfl rfl rfl rfl rfl rfl

theorem keepsLaws_reqClearDriveFault (p : PortId) (tag : Byte) : KeepsLaws (reqClearDriveFault p tag) :=
  keepsLaws_request fun _ _ s => by
    unfold runClearDriveFault
    simp only
    split_ifs
    · exact keepsEvent_driveReact.after ((keepsEvent_setRail _).after (keepsEvent_setAttempts _ s))
    · exact .refl s

/-! ### The list's requests (R91, R95, R96) -/

/-- A new port record is made where there is room for it. -/
theorem keepsLaws_reqRaiseAlert (p : PortId) (tag code area cls severity lamp tone : Byte) (message : List Byte) :
    KeepsLaws (reqRaiseAlert p tag code area cls severity lamp tone message) := keepsLaws_request fun hlength _ s => by
  have hmessage : message.length ≤ 32 := of_decide_eq_true hlength
  unfold runRaiseAlert
  split_ifs with hfull
  · exact keepsEvent_listEvent listOnly_raiseListOverflow keepsList_raiseListOverflow s
  · exact State.eventKept_listEvent (listOnly_raise _ _ _) fun hok =>
      State.alertsOk_raise hok (fun hport => absurd hport (by simp)) hmessage fun _ hnew => by
        rw [not_and, not_le] at hfull
        exact hfull hnew

theorem keepsLaws_reqClearAlert (p : PortId) (tag code : Byte) : KeepsLaws (reqClearAlert p tag code) :=
  keepsLaws_request fun _ _ s => by
    unfold runClearAlert
    simp only
    split_ifs
    · exact .refl s
    · exact State.eventKept_listEvent (fun u => ((listOnly_clear (.port p) code).comp (listOnly_checkOverflow _)) u)
        fun h => keepsList_checkOverflow _ _ (keepsList_clear _ _ s h)

theorem keepsLaws_reqAckAlert (p : PortId) (tag source code : Byte) : KeepsLaws (reqAckAlert p tag source code) :=
  keepsLaws_request fun _ _ s => by
    unfold runAckAlert
    simp only
    split_ifs
    · exact .refl s
    · exact .refl s
    · exact State.eventKept_listEvent
        (fun u => ((listOnly_acknowledge (.port p) (sourceOf source) code).comp (listOnly_checkOverflow _)) u)
        fun h => keepsList_checkOverflow _ _ (keepsList_acknowledge _ _ _ s h)

theorem keepsLaws_reqShelveAlert (p : PortId) (tag source code : Byte) (seconds : BitVec 16) :
    KeepsLaws (reqShelveAlert p tag source code seconds) := keepsLaws_request fun _ _ s => by
  unfold runShelveAlert
  simp only
  split_ifs
  · exact .refl s
  · exact keepsEvent_listEvent (listOnly_shelve _ _ _) (keepsList_shelve _ _ _) s

theorem keepsLaws_reqUnshelveAlert (p : PortId) (tag source code : Byte) :
    KeepsLaws (reqUnshelveAlert p tag source code) := keepsLaws_request fun _ _ s => by
  unfold runUnshelveAlert
  simp only
  split_ifs
  · exact .refl s
  · exact keepsEvent_listEvent (listOnly_unshelve _ _) (keepsList_unshelve _ _) s

theorem keepsLaws_reqListAlerts (p : PortId) (tag start : Byte) : KeepsLaws (reqListAlerts p tag start) :=
  keepsLaws_request fun _ _ s => .refl s

/-! ### The banner's and the sounder's requests (R128, R137, R146) -/

theorem keepsLaws_reqSetBanner (p : PortId) (tag height : Byte) : KeepsLaws (reqSetBanner p tag height) :=
  keepsLaws_request fun _ hrange s => by
    have hheight : 1 ≤ height.toNat ∧ height.toNat ≤ 2 := of_decide_eq_true hrange
    have hset : s.EventKept { s with bandHeight := height.toNat } :=
      ⟨⟨id, State.alertsOk_of_alerts rfl, id, fun _ => decide_eq_true (by omega : height.toNat = 1 ∨ height.toNat = 2),
        id⟩, rfl⟩
    unfold runSetBanner
    simp only
    split_ifs
    · exact .refl s
    · exact (keepsEvent_composed _ _).after hset

theorem State.tonesOk_set {s t : State} {entry : ToneId} {x : ToneEntry} (h : t.tones = s.tones.set entry x)
    (hx : x.ok = true) (hs : s.tonesOk = true) : t.tonesOk = true := by
  unfold State.tonesOk at hs ⊢
  rw [vector_all_iff] at hs ⊢
  intro n
  rw [h, vector_set_get]
  split_ifs
  · exact hx
  · exact hs n

/-- An entry in range is replaced; a pattern that plays it starts again with its source and entry (R137). -/
theorem State.eventKept_setTone (s : State) (entry : ToneId) {x : ToneEntry} (hx : x.ok = true) :
    s.EventKept (s.setTone entry x) := by
  have hset : s.EventKept { s with tones := s.tones.set entry x } :=
    ⟨⟨id, State.alertsOk_of_alerts rfl, State.tonesOk_set rfl hx, id, id⟩, rfl⟩
  unfold State.setTone
  simp only
  split
  · exact hset
  · next pt hpt =>
    split_ifs with hentry
    · refine hset.trans (.of_time id rfl rfl rfl rfl ?_)
      rw [State.playing, State.playing, State.startPattern_pattern, hpt, Option.map_some, Option.map_some, hentry]
    · exact hset

theorem toneEntryOf_ok {entry primary present secondary mix amplitude onTicks offTicks repeats : Byte}
    (h : setToneOk entry present mix amplitude onTicks = true) :
    (toneEntryOf primary present secondary mix amplitude onTicks offTicks repeats).ok = true := by
  simp only [setToneOk, upTo, within, Bool.and_eq_true, decide_eq_true_eq] at h
  obtain ⟨⟨_, hamplitude⟩, hon⟩ := h
  have hoff : offTicks.toNat < 256 := offTicks.isLt
  have hrepeats : repeats.toNat < 256 := repeats.isLt
  rw [ToneEntry.ok, Bool.and_eq_true, Bool.and_eq_true, Bool.and_eq_true, decide_eq_true_eq, decide_eq_true_eq,
    decide_eq_true_eq, decide_eq_true_eq]
  exact ⟨⟨⟨hamplitude, hon⟩, Nat.le_of_lt_succ hoff⟩, Nat.le_of_lt_succ hrepeats⟩

theorem keepsLaws_reqSetTone (p : PortId) (tag entry primary present secondary mix amplitude onTicks offTicks
    repeats : Byte) : KeepsLaws (reqSetTone p tag entry primary present secondary mix amplitude onTicks offTicks
      repeats) := keepsLaws_request fun _ hrange s => s.eventKept_setTone _ (toneEntryOf_ok hrange)

theorem toneOf_ne_zero {tone : Byte} (h : within 1 7 tone = true) : toneOf tone ≠ 0 := by
  have htone : 1 ≤ tone.toNat ∧ tone.toNat ≤ 7 := of_decide_eq_true h
  rw [ne_eq, Fin.ext_iff]
  change ¬tone.toNat % 8 = 0
  omega

theorem keepsLaws_reqChime (p : PortId) (tag tone : Byte) : KeepsLaws (reqChime p tag tone) :=
  keepsLaws_request fun _ hrange s => by
    unfold runChime
    split_ifs with _ hfull
    · exact .refl s
    · exact .refl s
    · refine ⟨⟨id, State.alertsOk_of_alerts rfl, id, id, fun hs => ?_⟩, rfl⟩
      rw [State.chimesOk_iff] at hs ⊢
      refine ⟨?_, fun n hn => ?_⟩
      · rw [List.length_append]
        exact Nat.not_le.mp hfull
      · rcases List.mem_append.mp hn with hn | hn
        · exact hs.2 n hn
        · exact List.mem_singleton.mp hn ▸ toneOf_ne_zero hrange

/-! ### The overlays' requests and the time's (R157, R159, R168) -/

theorem keepsLaws_reqPanelTest (p : PortId) (tag setting : Byte) : KeepsLaws (reqPanelTest p tag setting) :=
  keepsLaws_request fun _ _ s => keepsEvent_setRemoteTest _ s

theorem keepsLaws_reqBlank (p : PortId) (tag setting : Byte) : KeepsLaws (reqBlank p tag setting) :=
  keepsLaws_request fun _ _ s => keepsEvent_setBlank _ s

theorem keepsLaws_reqSetTime (p : PortId) (tag : Byte) (seconds : BitVec 32) :
    KeepsLaws (reqSetTime p tag seconds) := keepsLaws_admission fun _ _ s => by
  have hsettled := keepsLaws_settle s
  unfold runSetTime afterDue
  split_ifs
  · have hset := hsettled.toRangesKept.trans (keepsEvent_setTime seconds s.settle).toRangesKept
    exact ⟨hset.heard s, fun hs => State.soundOk_heardSince_setTime (keepsDue_settle s) (hsettled.sound hs) seconds⟩
  · exact hsettled.heard s

end Sys2Proof.Machine
end

section
/-!
PROOF. Frames, transmissions, power-on reset and every row keep the small laws. O56 is the last theorem.
-/

namespace Sys2Proof.Machine

/-! ### Frames, the receive buffer and transmissions (R174, R180, R192) -/

theorem keepsLaws_carry (p : PortId) (tag : Byte) (rc : RequestCode) (ops : List Byte) :
    KeepsLaws (carry p tag rc ops) := by
  unfold carry
  split
  case h_3 => exact keepsLaws_statusArrives p tag ops
  all_goals
    split
    case h_2 => exact keepsLaws_badLength p tag _
  · exact keepsLaws_reqAttach _ _ _ _ _
  · exact keepsLaws_reqDetach _ _
  · exact keepsLaws_reqResetPort _ _
  · exact keepsLaws_reqSetFilter _ _ _ _ _ _ _ _ _
  · exact keepsLaws_reqSetNotices _ _ _
  · exact keepsLaws_reqWaitSettled _ _ _ _
  · exact keepsLaws_reqOpenWindow _ _ _ _ _ _ _
  · exact keepsLaws_reqCloseWindow _ _ _
  · exact keepsLaws_reqMoveWindow _ _ _ _ _ _
  · exact keepsLaws_reqSetWindow _ _ _ _ _ _
  · exact keepsLaws_reqWriteCells _ _ _ _ _ _
  · exact keepsLaws_reqFillCells _ _ _ _ _ _ _ _ _
  · exact keepsLaws_reqReadCells _ _ _ _ _ _
  · exact keepsLaws_reqFlush _ _ _
  · exact keepsLaws_reqFullRefresh _ _ _ _
  · exact keepsLaws_reqSetRefreshPeriod _ _ _
  · exact keepsLaws_reqSetHold _ _ _
  · exact keepsLaws_reqClearDriveFault _ _
  · exact keepsLaws_reqRaiseAlert _ _ _ _ _ _ _ _ _
  · exact keepsLaws_reqClearAlert _ _ _
  · exact keepsLaws_reqAckAlert _ _ _ _
  · exact keepsLaws_reqShelveAlert _ _ _ _ _
  · exact keepsLaws_reqUnshelveAlert _ _ _ _
  · exact keepsLaws_reqListAlerts _ _ _
  · exact keepsLaws_reqSetBanner _ _ _
  · exact keepsLaws_reqSetTone _ _ _ _ _ _ _ _ _ _ _
  · exact keepsLaws_reqChime _ _ _
  · exact keepsLaws_reqPanelTest _ _ _
  · exact keepsLaws_reqBlank _ _ _
  · exact keepsLaws_reqSetTime _ _ _

theorem keepsLaws_carryBody (p : PortId) (body : List Byte) : KeepsLaws (carryBody p body) := by
  unfold carryBody
  split
  · split
    · exact keepsLaws_carry _ _ _ _
    · exact fun s => keepsLaws_refuse _ _ _ _ s
  · exact .refl

theorem keepsLaws_takeRequest (p : PortId) : KeepsLaws (State.takeRequest p) := fun s => by
  unfold State.takeRequest
  split
  · exact .refl s
  · split_ifs
    · exact (keepsLaws_modifyPort p _ s).trans (keepsLaws_carryBody p _ _)
    · exact .refl s

theorem keepsLaws_requestArrives (p : PortId) (body : List Byte) : KeepsLaws (State.requestArrives p body) :=
  fun s => by
    unfold State.requestArrives
    split
    · exact keepsLaws_statusArrives p _ _ s
    · exact (keepsLaws_modifyPort p _ s).trans (keepsLaws_takeRequest p _)

theorem keepsLaws_restartKeepalive (p : PortId) : KeepsLaws (State.restartKeepalive p) :=
  (keepsLaws_secondFirst p).comp (keepsLaws_modifyPort p _)

theorem keepsLaws_frame (p : PortId) (r : Received) : KeepsLaws (State.frame p r) := fun s => by
  unfold State.frame
  split
  · exact .refl s
  · exact keepsLaws_modifyPort p _ s
  · exact (keepsLaws_restartKeepalive p s).trans (keepsLaws_modifyPort p _ _)
  · exact (keepsLaws_restartKeepalive p s).trans (keepsLaws_requestArrives p _ _)

theorem keepsLaws_firstOf (p : PortId) (body : List Byte) : KeepsLaws (firstOf p body) := by
  unfold firstOf
  split
  · split
    · exact keepsLaws_secondFirst p
    · exact keepsLaws_secondFirst p
    · exact (keepsLaws_secondFirst p).comp keepsLaws_expiryFirst
    · exact keepsLaws_settle
    · exact .refl
  · exact .refl

theorem keepsLaws_endTransmission (p : PortId) : KeepsLaws (State.endTransmission p) := fun s => by
  have hbefore : s.LawsKept (s.beforeEnd p) := by
    unfold State.beforeEnd
    split
    · exact .refl s
    · split_ifs
      · exact keepsLaws_firstOf p _ s
      · exact .refl s
  exact (hbefore.trans (keepsLaws_modifyPort p _ _)).trans (keepsLaws_takeRequest p _)

/-! ### Power-on reset (R7, R77) -/

/-- The reset values keep every small law, and so does the rise at the same event: there is no DRIVE_FAULT to clear. -/
theorem keepsLaws_powerOn : KeepsLaws fun s => s.powerOn.driveReact := fun s => by
  have hreset : s.LawsKept s.powerOn :=
    ⟨⟨fun _ => rfl, fun _ => rfl, fun _ => State.reset_tonesOk, fun _ => rfl, fun _ => rfl⟩,
      fun _ => State.reset_soundOk⟩
  have hempty : s.powerOn.record .system driveFaultCode = none := rfl
  have hlowered : s.powerOn.FaultLowered := fun a ha => absurd (hempty.symm.trans ha) (by simp)
  have hrise : s.powerOn.driveReact.alerts = s.powerOn.alerts := by
    rw [State.driveReact_alerts, State.clear_of_lowered hlowered, ite_self]
  exact hreset.trans ((keepsEvent_driveReact s.powerOn).laws hrise (by simp [State.panelTest]) (by simp))

/-! ### Every row, every step -/

theorem KeepsLaws.takeDirect {p : PortId} {request : State → State} (hf : KeepsLaws request) (s : State) :
    ∃ t, takeDirect p request s = .next t ∧ s.LawsKept t := by
  refine ⟨_, rfl, ?_⟩
  split_ifs
  · exact (hf s).trans (keepsLaws_finish _)
  · exact .refl s

/-- Every command is answered with a state that keeps every small law. -/
theorem exec_lawsKept (i : Instr) (s : State) : ∃ t, exec i s = .next t ∧ s.LawsKept t := by
  have hfinish {u : State} (h : s.LawsKept u) : s.LawsKept u.finish := h.trans (keepsLaws_finish u)
  cases i with
  | powerOnReset => exact ⟨_, rfl, hfinish (keepsLaws_powerOn s)⟩
  | frameReceived p line => exact ⟨_, rfl, hfinish ((keepsLaws_lossFirst p s).trans (keepsLaws_frame p _ _))⟩
  | takeRequest p => exact ⟨_, rfl, hfinish (keepsLaws_takeRequest p s)⟩
  | transmissionStart p => exact ⟨_, rfl, keepsLaws_modifyPort p _ s⟩
  | transmissionEnd p => exact ⟨_, rfl, hfinish (keepsLaws_endTransmission p s)⟩
  | attach => exact (keepsLaws_reqAttach _ _ _ _ _).takeDirect s
  | detach => exact (keepsLaws_reqDetach _ _).takeDirect s
  | status p tag extra => exact ⟨_, rfl, hfinish (keepsLaws_statusArrives p tag extra s)⟩
  | resetPort => exact (keepsLaws_reqResetPort _ _).takeDirect s
  | setFilter => exact (keepsLaws_reqSetFilter _ _ _ _ _ _ _ _ _).takeDirect s
  | setNotices => exact (keepsLaws_reqSetNotices _ _ _).takeDirect s
  | waitSettled => exact (keepsLaws_reqWaitSettled _ _ _ _).takeDirect s
  | waitTimeout p => exact ⟨_, rfl, keepsLaws_due (.waitEnd p) s⟩
  | portLoss p => exact ⟨_, rfl, keepsLaws_due (.loss p) s⟩
  | openWindow => exact (keepsLaws_reqOpenWindow _ _ _ _ _ _ _).takeDirect s
  | closeWindow => exact (keepsLaws_reqCloseWindow _ _ _).takeDirect s
  | moveWindow => exact (keepsLaws_reqMoveWindow _ _ _ _ _ _).takeDirect s
  | setWindow => exact (keepsLaws_reqSetWindow _ _ _ _ _ _).takeDirect s
  | writeCells => exact (keepsLaws_reqWriteCells _ _ _ _ _ _).takeDirect s
  | fillCells => exact (keepsLaws_reqFillCells _ _ _ _ _ _ _ _ _).takeDirect s
  | readCells => exact (keepsLaws_reqReadCells _ _ _ _ _ _).takeDirect s
  | flush => exact (keepsLaws_reqFlush _ _ _).takeDirect s
  | jobStart => exact ⟨_, rfl, hfinish ((keepsEvent_jobStart s).laws (by simp) (by simp [State.panelTest]) (by simp))⟩
  | jobCompletion e => exact ⟨_, rfl, keepsLaws_due (.completion e) s⟩
  | fullRefreshExpiry => exact ⟨_, rfl, keepsLaws_due .refresh s⟩
  | fullRefresh => exact (keepsLaws_reqFullRefresh _ _ _ _).takeDirect s
  | setRefreshPeriod => exact (keepsLaws_reqSetRefreshPeriod _ _ _).takeDirect s
  | powerGoodAsserted => exact ⟨_, rfl, keepsEvent_assertPowerGood.whole s⟩
  | powerGoodLost => exact ⟨_, rfl, keepsEvent_losePowerGood.whole s⟩
  | riseTimerExpiry => exact ⟨_, rfl, keepsLaws_due .rise s⟩
  | holdTimerExpiry => exact ⟨_, rfl, keepsLaws_due .hold s⟩
  | fallTimerExpiry => exact ⟨_, rfl, keepsLaws_due .fall s⟩
  | retryTimerExpiry => exact ⟨_, rfl, keepsLaws_due .retry s⟩
  | setHold => exact (keepsLaws_reqSetHold _ _ _).takeDirect s
  | clearDriveFault => exact (keepsLaws_reqClearDriveFault _ _).takeDirect s
  | raiseAlert => exact (keepsLaws_reqRaiseAlert _ _ _ _ _ _ _ _ _).takeDirect s
  | clearAlert => exact (keepsLaws_reqClearAlert _ _ _).takeDirect s
  | ackAlert => exact (keepsLaws_reqAckAlert _ _ _ _).takeDirect s
  | shelveAlert => exact (keepsLaws_reqShelveAlert _ _ _ _ _).takeDirect s
  | unshelveAlert => exact (keepsLaws_reqUnshelveAlert _ _ _ _).takeDirect s
  | shelvingExpiry => exact ⟨_, rfl, keepsLaws_due .shelving s⟩
  | listAlerts => exact (keepsLaws_reqListAlerts _ _ _).takeDirect s
  | setBanner => exact (keepsLaws_reqSetBanner _ _ _).takeDirect s
  | periodEnd => exact ⟨_, rfl, keepsLaws_due .period s⟩
  | setTone => exact (keepsLaws_reqSetTone _ _ _ _ _ _ _ _ _ _ _).takeDirect s
  | chime => exact (keepsLaws_reqChime _ _ _).takeDirect s
  | ackPress => exact ⟨_, rfl, keepsLaws_due .ackPress s⟩
  | ackHold => exact ⟨_, rfl, keepsLaws_due .ackHold s⟩
  | ackRelease => exact ⟨_, rfl, keepsLaws_due .ackRelease s⟩
  | silencePress => exact ⟨_, rfl, keepsLaws_due .silencePress s⟩
  | silenceRelease => exact ⟨_, rfl, keepsLaws_due .silenceRelease s⟩
  | testPress => exact ⟨_, rfl, keepsLaws_due .testPress s⟩
  | testRelease => exact ⟨_, rfl, keepsLaws_due .testRelease s⟩
  | panelTest => exact (keepsLaws_reqPanelTest _ _ _).takeDirect s
  | blank => exact (keepsLaws_reqBlank _ _ _).takeDirect s
  | tickEvent ack silence test =>
    exact ⟨_, rfl, hfinish ((keepsLaws_settle s).trans (keepsLaws_tick ack silence test _))⟩
  | secondEvent => exact ⟨_, rfl, keepsLaws_due .second s⟩
  | blinkEvent => exact ⟨_, rfl, keepsLaws_due .blink s⟩
  | setTime => exact (keepsLaws_reqSetTime _ _ _).takeDirect s

theorem step_lawsKept {s t : State} (hst : step s = .next t) : s.LawsKept t := by
  unfold step at hst
  split at hst
  · exact Host.Outcome.next.inj hst ▸ .refl s
  · next i rest _ =>
    obtain ⟨u, hu, hlaws⟩ := exec_lawsKept i { s with pending := rest }
    rw [← Host.Outcome.next.inj (hst.symm.trans hu)] at hlaws
    exact ((State.EventKept.of_eq rfl rfl rfl rfl rfl rfl :
      s.EventKept { s with pending := rest }).laws rfl rfl rfl).trans hlaws

/-- Settles O56: each event keeps the ranges and what plays, and the choice at its end the law of the sounder
(`State.LawsKept`); the laws do not rest on one another. -/
theorem everyStepKeepsTheSmallLaws : Obligations.EveryStepKeepsTheSmallLaws := by
  unfold Obligations.EveryStepKeepsTheSmallLaws
  intro s t hst
  obtain ⟨⟨htime, hlist, htones, hband, hchimes⟩, hsound⟩ := step_lawsKept hst
  exact ⟨htime, hlist, htones, hband, hsound, hchimes⟩

end Sys2Proof.Machine
end

section
/-!
PROOF. SET_TIME with nothing left due (R168): the composition event of step 3 and the list event of step 4, each
answered by the drive, beside the response.
-/

namespace Sys2Proof.Machine

/-! ### DRIVE_FAULT cleared in the list (R78, R100) -/

/-- What the clearing of DRIVE_FAULT makes of a record. -/
def Alert.faultCleared (now : Stamp) (a : Alert) : Option Alert :=
  if a.source = .system ∧ a.code = driveFaultCode then afterClear now (some a) else some a

theorem Alert.faultCleared_of_other {now : Stamp} {a : Alert} (h : a.isFor .system driveFaultCode ≠ true) :
    a.faultCleared now = some a := if_neg (mt isFor_iff.mpr h)

theorem Alert.faultCleared_of_fault {now : Stamp} {a : Alert} (h : a.isFor .system driveFaultCode = true) :
    a.faultCleared now = afterClear now (some a) := if_pos (isFor_iff.mp h)

/-- The clearing changes DRIVE_FAULT in its place, or takes it out of the list. -/
theorem State.clear_alerts_filterMap {s : State} (h : uniqueKeys s.alerts) :
    (s.clear .system driveFaultCode).alerts = s.alerts.filterMap (Alert.faultCleared s.now) := by
  have hkept (hsame : ∀ a ∈ s.alerts, a.faultCleared s.now = some a) :
      s.alerts = s.alerts.filterMap (Alert.faultCleared s.now) := by
    rw [List.filterMap_congr hsame, List.filterMap_some]
  unfold State.clear
  split
  · next hnone => exact hkept fun a ha => Alert.faultCleared_of_other (List.find?_eq_none.mp hnone a ha)
  · next r hr =>
    have hone : ∀ a ∈ s.alerts, a.isFor .system driveFaultCode = true → a = r := fun a ha hfor =>
      Option.some.inj ((h.record ha hfor).symm.trans hr)
    split
    · next hs =>
      refine ((List.filterMap_eq_map_iff_forall_eq_some).mpr fun a ha => ?_).symm
      split_ifs with hfor
      · rw [Alert.faultCleared_of_fault hfor, hone a ha hfor, afterClear, hs]
      · exact Alert.faultCleared_of_other hfor
    · next hs =>
      change s.alerts.filter _ = _
      rw [← List.filterMap_eq_filter]
      refine List.filterMap_congr fun a ha => ?_
      cases hfor : a.isFor .system driveFaultCode with
      | true =>
        rw [Alert.faultCleared_of_fault hfor, hone a ha hfor, afterClear, hs]
        simp [Option.guard, ← hone a ha hfor, hfor]
      | false => simp [Option.guard, hfor, Alert.faultCleared_of_other]
    · next hs =>
      refine hkept fun a ha => ?_
      by_cases hfor : a.isFor .system driveFaultCode = true
      · rw [Alert.faultCleared_of_fault hfor, hone a ha hfor, afterClear, hs]
      · exact Alert.faultCleared_of_other hfor

/-! ### The composition event of step 3 -/

section
variable (s : State) (seconds : BitVec 32)

/-- The time set, with the phase still as it was. -/
def State.clockMoved : State := { s with time := ⟨0, seconds, s.time.phase, false, false⟩ }

theorem State.drawnTo_clockStarted : (s.clockSet seconds).drawnTo (s.clockStarted seconds) := by
  unfold State.clockStarted
  split_ifs
  · exact State.drawnTo_refl _
  · exact State.drawnTo_composed _ _ _

/-- Where the phase was ON nothing is composed; where it was OFF every tile is reported, and the drive answers. -/
theorem State.clockStarted_picture : if s.time.phase = true then s.clockStarted seconds = s.clockSet seconds
    else (s.clockSet seconds).drawnTo (s.clockStarted seconds) ∧
      (s.clockMoved seconds).redrawn (s.clockStarted seconds) fun _ => true := by
  split_ifs with hphase
  · exact if_pos hphase
  · refine ⟨s.drawnTo_clockStarted seconds, ?_⟩
    rw [State.clockStarted, if_neg hphase]
    exact State.redrawn_composed (s := s.clockMoved seconds) (u := s.clockSet seconds) allTiles_nodup
      (fun n => iff_of_true rfl (mem_allTiles n)) rfl rfl rfl rfl rfl rfl rfl (State.waitsFollow_of_waits fun _ => rfl)

theorem State.clockStarted_time : (s.clockStarted seconds).time = ⟨0, seconds, true, false, false⟩ := by
  unfold State.clockStarted
  split_ifs
  · rfl
  · exact State.composed_time _ _ _

theorem State.clockStarted_record {src : Source} {code : Byte}
    (h : (src, code) ≠ (Source.system, driveFaultCode) ∨ ¬s.risesAtOnce) :
    (s.clockStarted seconds).record src code = s.record src code := by
  unfold State.clockStarted State.composed
  split_ifs
  · rfl
  · exact State.driveReact_record _ src code h

theorem State.clockStarted_alerts (h : s.alertsOk = true) : (s.clockStarted seconds).alerts = s.alerts ∨
    (s.time.phase = false ∧ s.risesAtOnce ∧
      (s.clockStarted seconds).alerts = s.alerts.filterMap (Alert.faultCleared ⟨seconds, 0⟩)) := by
  unfold State.clockStarted State.composed
  split_ifs with hphase
  · exact Or.inl rfl
  · rw [State.driveReact_alerts]
    split_ifs with hrises
    · exact Or.inr ⟨by simpa using hphase, hrises.1,
        State.clear_alerts_filterMap (s := (s.clockSet seconds).compositorEvent _ allTiles)
          (State.uniqueKeys_of_alertsOk h)⟩
    · exact Or.inl rfl

theorem State.calm_clockStarted (p : PortId) : State.calm p s (s.clockStarted seconds) := by
  have hset : State.calm p s (s.clockSet seconds) := State.calm_of_ports rfl
  unfold State.clockStarted
  split_ifs
  · exact hset
  · exact hset.trans (State.calm_composed p _ _ _)

/-! ### The list event of step 4, and the response -/

theorem State.setTime_recordsBecome (h : s.alertsOk = true) :
    s.recordsBecome (s.setTime seconds) (Alert.afterExpiry seconds) := by
  have hok := (s.eventKept_clockStarted seconds).list h
  have hclock : (s.clockStarted seconds).time.seconds = seconds := by rw [State.clockStarted_time]
  have hbecome : (s.clockStarted seconds).recordsBecome (s.setTime seconds) (Alert.afterExpiry seconds) := by
    rw [State.setTime_eq]
    refine State.recordsBecome_listEvent listOnly_unshelveExpired ?_ (Alert.afterExpiry_isFor seconds)
    rw [State.unshelveExpired_alerts (State.uniqueKeys_of_alertsOk hok), hclock]
  obtain ⟨hmakes, hlist⟩ := hbecome
  have hnot : ¬s.risesAtOnce → ¬(s.clockStarted seconds).risesAtOnce :=
    (s.drawnTo_clockStarted seconds).not_rises (s := s.clockSet seconds)
  refine ⟨fun src code hkey => ?_, fun hrise => ?_⟩
  · rw [hmakes src code (hkey.imp id hnot), State.clockStarted_record s seconds hkey]
  · have hsame : (s.clockStarted seconds).alerts = s.alerts :=
      (s.clockStarted_alerts seconds h).elim id fun hcleared => absurd hcleared.2.1 hrise
    rw [hlist (hnot hrise), hsame]

theorem State.setTime_time : (s.setTime seconds).time = ⟨0, seconds, true, false, false⟩ := by
  rw [State.setTime_eq, State.listEvent_time _ listOnly_unshelveExpired, State.clockStarted_time]

/-- What a SET_TIME of port `p` leaves, with nothing left due. -/
def State.timeSet (p : PortId) (tag : Byte) : State :=
  ((s.heardSince (s.setTime seconds)).reply p tag .setTime (some (.ok, []))).finish

variable (p : PortId) (tag : Byte)

theorem State.timeSet_alerts : (s.timeSet seconds p tag).alerts = (s.setTime seconds).alerts :=
  State.heardSince_alerts _ _

theorem State.timeSet_time : (s.timeSet seconds p tag).time = ⟨0, seconds, true, false, false⟩ :=
  (State.heardSince_time _ _).trans (s.setTime_time seconds)

theorem State.relisted_timeSet : (s.clockStarted seconds).relisted (s.timeSet seconds p tag) := by
  have hevent := State.relisted_listEvent (s := s.clockStarted seconds) listOnly_unshelveExpired
    (State.quiet_unshelveExpired _)
  rw [← State.setTime_eq] at hevent
  exact ((hevent.heardSince s).of_ports (u := (s.heardSince (s.setTime seconds)).reply p tag .setTime (some (.ok, [])))
    rfl (State.modifyPort_wait fun _ => rfl)).finish

variable {s p}

theorem State.answers_timeSet (hs : s.serves p) : s.answers (s.timeSet seconds p tag) p tag .setTime .ok [] := by
  have hevent := State.calm_listEvent (p := p) (s.clockStarted seconds) ((State.quiet_unshelveExpired _).calm p)
  rw [← State.setTime_eq] at hevent
  exact (((s.calm_clockStarted seconds p).trans hevent).trans (State.calm_heardSince p _ s)).answers hs.2 tag .setTime
    .ok []

/-- The notices of the unshelvings, beside that of DRIVE_FAULT's clearing where step 3 brings it, and the choice. -/
theorem State.listedFrom_timeSet (hs : s.serves p) (hok : s.alertsOk = true) :
    ((s.clockSet seconds).answered p tag .setTime .ok []).listedFrom s
      ((s.clockStarted seconds).alerts.flatMap (expiryNotices ⟨seconds, 0⟩)) (s.timeSet seconds p tag) := by
  have hnow : (s.clockStarted seconds).now = ⟨seconds, 0⟩ := by rw [State.now, State.clockStarted_time]
  have hhanded := State.handed_unshelveExpired ((s.eventKept_clockStarted seconds).list hok)
  rw [hnow] at hhanded
  have hlisted := (s.drawnTo_clockStarted seconds).then (State.listedTo_listEvent listOnly_unshelveExpired hhanded)
  rw [← State.setTime_eq] at hlisted
  obtain ⟨htest, hchimes⟩ := s.setTime_sounder seconds
  have hpattern : (s.setTime seconds).pattern = s.pattern ∧ (s.setTime seconds).tones = s.tones := by
    rw [State.setTime_eq, State.listEvent_pattern _ listOnly_unshelveExpired,
      State.listEvent_tones _ listOnly_unshelveExpired]
    unfold State.clockStarted
    split_ifs
    · exact ⟨rfl, rfl⟩
    · exact ⟨State.composed_pattern _ _ _, State.composed_tones _ _ _⟩
  exact ⟨_, (hlisted.heard s).answered (PortUnit.canTake_wait hs.2) tag .setTime .ok [], fun hsound =>
    (State.hears_heardSince (s := s.clockSet seconds) hsound rfl hchimes hpattern.1 htest hpattern.2).answered p tag
      .setTime .ok [], rfl⟩

end

end Sys2Proof.Machine
end

section
/-!
PROOF. SET_TIME after the events left due, as the SET_TIME of the state they leave (R170; log 8), and O55.
-/

namespace Sys2Proof.Machine

/-! ### What settling leaves of the sounder and the transmitters -/

/-- What the sounder's choice looks at is as it was. -/
def State.heardAlike (b s : State) : Prop := s.alerts = b.alerts ∧ s.panelTest = b.panelTest ∧ s.chimes = b.chimes

/-- A due event leaves what the sounder hears, or a pattern that plays the source that applies. -/
theorem State.heardAlike_or_soundOk_settle (s : State) : s.heardAlike s.settle ∨ s.settle.soundOk = true :=
  State.settle_induct (P := fun u => s.heardAlike u ∨ u.soundOk = true) (fun _ _ h => h)
    (fun u d _ h => by
      rcases h with halike | hsound
      · by_cases hact : u.heardAlike (d.act u)
        · have hsame : u.heardSince (d.act u) = d.act u := State.heardSince_of_same hact.1 hact.2.1 hact.2.2
          refine Or.inl ?_
          rw [State.whole, hsame]
          exact ⟨hact.1.trans halike.1, hact.2.1.trans halike.2.1, hact.2.2.trans halike.2.2⟩
        · have hchosen : u.heardSince (d.act u) = (d.act u).chooseSource := if_neg hact
          refine Or.inr ?_
          rw [State.whole, hchosen]
          exact (d.act u).soundOk_chooseSource
      · exact Or.inr ((keepsLaws_due d u).sound hsound))
    (Or.inl ⟨rfl, rfl, rfl⟩)

theorem State.finish_finish (s : State) : s.finish.finish = s.finish := by
  have hports : s.finish.finish.ports = s.finish.ports := Vector.ext fun q hq => by
    rw [State.finish_port _ ⟨q, hq⟩, State.finish_port _ ⟨q, hq⟩, PortUnit.startTx_startTx]
  exact congrArg (fun v => { s with ports := v }) hports

/-- Once something due has been taken, every free transmitter with a frame waiting has begun one (R192). -/
theorem State.finish_settle {s : State} (hdue : s.dueNow ≠ []) (hnone : s.settle.dueNow = []) :
    s.settle.finish = s.settle :=
  (State.settle_induct (P := fun u => u.dueNow ≠ [] ∨ u.finish = u)
    (fun _ n h => h.imp id fun hu => congrArg (fun v : State => { v with choices := n }) hu)
    (fun _ _ _ _ => Or.inr (State.finish_finish _)) (Or.inl hdue)).resolve_left (absurd hnone)

/-! ### The choice after a SET_TIME -/

/-- The choice is the same from the state the due events found as from the one they left. -/
theorem State.heardSince_setTime_settle (s : State) (seconds : BitVec 32) :
    s.heardSince (s.settle.setTime seconds) = s.settle.heardSince (s.settle.setTime seconds) := by
  obtain ⟨htest, hchimes⟩ := s.settle.setTime_sounder seconds
  rcases s.heardAlike_or_soundOk_settle with halike | hsound
  · unfold State.heardSince
    rw [halike.1, halike.2.1, halike.2.2]
  · have hchosen : s.settle.heardSince (s.settle.setTime seconds) = (s.settle.setTime seconds).chooseSource := by
      unfold State.heardSince
      split_ifs with hsame
      · exact (State.chooseSource_of_soundOk
          (((keepsEvent_setTime seconds _).laws hsame.1 hsame.2.1 hsame.2.2).sound hsound)).symm
      · rfl
    by_cases hsame : s.heardAlike (s.settle.setTime seconds)
    · have halerts := (keepsDue_settle s).setTime_alerts hsame.1
      rw [State.heardSince_of_same hsame.1 hsame.2.1 hsame.2.2, State.heardSince_of_same halerts htest hchimes]
    · exact (if_neg hsame).trans hchosen.symm

/-- A choice after the due events alone changes nothing more. -/
theorem State.heardSince_settle (s : State) : s.heardSince s.settle = s.settle := by
  unfold State.heardSince
  split_ifs with hsame
  · rfl
  · exact State.chooseSource_of_soundOk (s.heardAlike_or_soundOk_settle.resolve_left hsame)

/-! ### The request's port -/

theorem exec_setTime_admitted {s : State} {p : PortId} (hs : s.serves p) (hsup : s.supervisor = some p) (tag : Byte)
    (seconds : BitVec 32) : exec (.setTime p tag seconds) s =
      .next ((s.heardSince (runSetTime p seconds s).1).reply p tag .setTime (runSetTime p seconds s).2).finish :=
  takeDirect_admitted hs tag .setTime true true true (runSetTime p seconds) rfl rfl fun _ => hsup

theorem exec_setTime_of_none {s : State} {p : PortId} (hs : s.serves p) (hsup : s.supervisor = some p)
    (hnone : s.dueNow = []) (tag : Byte) (seconds : BitVec 32) :
    exec (.setTime p tag seconds) s = .next (s.timeSet seconds p tag) := by
  rw [exec_setTime_admitted hs hsup, runSetTime, afterDue_same (State.settle_of_none hnone)]
  rfl

/-- A port that goes on can still take the request, where nothing is left due. -/
theorem State.serves_settle {s : State} {p : PortId} (hs : s.serves p) (hnone : s.settle.dueNow = [])
    (hattached : s.settle.ports[p].state = .attached) :
    s.settle.serves p ∧ (s.supervisor = some p → s.settle.supervisor = some p) := by
  rcases (keepsDue_settle s).port p with ⟨hgo, hrole⟩ | hgone
  · obtain ⟨hwait, hresponses⟩ := hgo.calm (PortUnit.canTake_wait hs.2)
    have hloss : s.settle.ports[p].lossDue = false := State.not_isDue hnone (.loss p)
    have hfree : s.ports[p].hasExecResponse = false := by
      have htake : s.ports[p].canTake = true := hs.2
      simp only [PortUnit.canTake, Bool.and_eq_true, Bool.not_eq_true'] at htake
      exact htake.1.2
    refine ⟨⟨hattached, ?_⟩, hrole⟩
    simp only [Fin.getElem_fin] at hwait hresponses hloss hfree ⊢
    rw [PortUnit.canTake, PortUnit.ready, PortUnit.hasExecResponse, hwait, hresponses, hloss]
    rw [PortUnit.hasExecResponse] at hfree
    rw [hfree]
    rfl
  · exact absurd (hgone.state.symm.trans hattached) (by decide)

/-- With events left due, SET_TIME is the request in the state they leave, or is gone with its port (R170, R187). -/
theorem exec_setTime_settle {s : State} {p : PortId} (hs : s.serves p) (hsup : s.supervisor = some p)
    (hdue : s.dueNow ≠ []) (hnone : s.settle.dueNow = []) (tag : Byte) (seconds : BitVec 32) :
    exec (.setTime p tag seconds) s = if s.settle.ports[p].state = .attached
      then exec (.setTime p tag seconds) s.settle else .next s.settle := by
  have hstate : s.ports[p].state = .attached := hs.1
  rw [exec_setTime_admitted hs hsup, runSetTime, afterDue, hstate]
  split_ifs with hattached
  · obtain ⟨hserves, hrole⟩ := State.serves_settle hs hnone hattached
    rw [exec_setTime_of_none hserves (hrole hsup) hnone, State.heardSince_setTime_settle]
    rfl
  · rw [State.heardSince_settle]
    exact congrArg Host.Outcome.next (State.finish_settle hdue hnone)

/-- Settles O55: what is left due is taken first and then SET_TIME as from the state it leaves; with nothing due, the
composition event of step 3 and the list event of step 4. -/
theorem setTimeSets : Obligations.SetTimeSets := by
  unfold Obligations.SetTimeSets
  refine ⟨fun s p tag seconds hs hsup htones hrail hdue => ?_, fun s p tag seconds hs hsup hnone hok => ?_⟩
  · obtain ⟨ds, htaken, hleft⟩ := State.takesDue_settle (State.sound_of_laws htones hrail)
    exact ⟨ds, _, htaken, hleft, exec_setTime_settle hs hsup hdue hleft tag seconds⟩
  · refine ⟨s.timeSet seconds p tag, exec_setTime_of_none hs hsup hnone tag seconds,
      State.answers_timeSet seconds tag hs, s.timeSet_time seconds p tag,
      (s.setTime_recordsBecome seconds hok).of_alerts (s.timeSet_alerts seconds p tag), ?_, ?_⟩
    · rw [s.timeSet_time seconds p tag]
      exact ⟨_, s.clockStarted_picture seconds, s.relisted_timeSet seconds p tag⟩
    · rw [s.timeSet_time seconds p tag]
      exact ⟨_, s.clockStarted_alerts seconds hok, State.listedFrom_timeSet seconds tag hs hok⟩

end Sys2Proof.Machine
end

section
/-!
PROOF. The laws of one Port Unit (O58): what `PortUnit.ok` says field by field, what the operations of an event leave
of a unit, and the relation `PortUnit.Kept` between a unit before and after an event that neither attaches, detaches
nor loses its port.
-/

namespace Sys2Proof.Machine

/-! ### The laws of a unit, but for a transmission that is still to begin -/

/-- The port neither waits nor has an execution response queued (R180). -/
def PortUnit.idle (u : PortUnit) : Prop := u.wait = none ∧ u.hasExecResponse = false

/-- The laws of a Port Unit within an event: the free transmitter begins its next frame only at the event's end. -/
structure PortUnit.Lawful (u : PortUnit) : Prop where
  keepalive : u.keepalive ≤ 60
  counts : u.keepaliveCount.isSome = (decide (u.state = .attached) && decide (u.keepalive ≠ 0))
  buffer : u.rx.length ≤ 2
  execs : (u.responses.filter (·.exec)).length ≤ 1
  statuses : u.statusResponses ≤ 3
  notices : u.notices.length ≤ 8
  responds : u.tx = .response → u.responses ≠ []
  notifies : u.tx = .notice → u.notices ≠ []
  waits : ∀ w, u.wait = some w → u.state = .attached ∧ (1 ≤ w.timeout ∧ w.timeout ≤ 60) ∧ u.hasExecResponse = false
  bodies : u.bufferOk = true

/-- A free transmitter has nothing to send (R192). -/
def PortUnit.started (u : PortUnit) : Prop := u.tx = .free → u.responses = [] ∧ u.notices = []

theorem PortUnit.queuesOk_iff (u : PortUnit) : u.queuesOk = true ↔ u.rx.length ≤ 2 ∧
    (u.responses.filter (·.exec)).length ≤ 1 ∧ u.statusResponses ≤ 3 ∧ u.notices.length ≤ 8 ∧
    (u.tx = .response → u.responses ≠ []) ∧ (u.tx = .notice → u.notices ≠ []) ∧ u.started := by
  unfold PortUnit.queuesOk PortUnit.started
  cases u.tx <;> simp [and_assoc]

theorem PortUnit.waitOk_iff (u : PortUnit) : u.waitOk = true ↔ ∀ w, u.wait = some w →
    u.state = .attached ∧ (1 ≤ w.timeout ∧ w.timeout ≤ 60) ∧ u.hasExecResponse = false := by
  unfold PortUnit.waitOk
  cases u.wait <;> simp [and_assoc]

theorem PortUnit.ok_iff (u : PortUnit) : u.ok = true ↔ u.Lawful ∧ u.started := by
  unfold PortUnit.ok PortUnit.keepaliveOk
  rw [Bool.and_eq_true, Bool.and_eq_true, Bool.and_eq_true, Bool.and_eq_true, PortUnit.queuesOk_iff,
    PortUnit.waitOk_iff, decide_eq_true_eq, decide_eq_true_eq]
  constructor
  · rintro ⟨⟨⟨⟨hk, hc⟩, hb, he, hs, hn, hr, ht, hst⟩, hw⟩, hbo⟩
    exact ⟨⟨hk, hc, hb, he, hs, hn, hr, ht, hw, hbo⟩, hst⟩
  · rintro ⟨⟨hk, hc, hb, he, hs, hn, hr, ht, hw, hbo⟩, hst⟩
    exact ⟨⟨⟨⟨hk, hc⟩, hb, he, hs, hn, hr, ht, hst⟩, hw⟩, hbo⟩

theorem PortUnit.startTx_started (u : PortUnit) : u.startTx.started := by
  unfold PortUnit.startTx PortUnit.started
  split_ifs <;> simp_all

theorem PortUnit.hasExecResponse_eq_false (u : PortUnit) :
    u.hasExecResponse = false ↔ u.responses.filter (·.exec) = [] := by
  simp [PortUnit.hasExecResponse, List.filter_eq_nil_iff]

/-! ### A unit before and after an event -/

/-- What an event leaves of a unit whose port stays in its state. -/
structure PortUnit.Kept (u v : PortUnit) : Prop where
  state : v.state = u.state
  idle : u.idle → v.idle
  wait : ∀ w, v.wait = some w → ∃ x, u.wait = some x ∧ x.window = w.window
  lawful : u.Lawful → v.Lawful

theorem PortUnit.Kept.refl (u : PortUnit) : u.Kept u := ⟨rfl, id, fun w hw => ⟨w, hw, rfl⟩, id⟩

theorem PortUnit.Kept.trans {u v x : PortUnit} (h : u.Kept v) (g : v.Kept x) : u.Kept x where
  state := g.state.trans h.state
  idle hu := g.idle (h.idle hu)
  wait w hw := by
    obtain ⟨y, hy, hyw⟩ := g.wait w hw
    obtain ⟨z, hz, hzy⟩ := h.wait y hy
    exact ⟨z, hz, hzy.trans hyw⟩
  lawful hu := g.lawful (h.lawful hu)

theorem PortUnit.kept_startTx (u : PortUnit) : u.Kept u.startTx where
  state := u.startTx_state
  idle h := by simpa [PortUnit.idle, PortUnit.hasExecResponse] using h
  wait w hw := ⟨w, by simpa using hw, rfl⟩
  lawful h := by
    have hsend : (u.startTx.tx = .response → u.responses ≠ []) ∧ (u.startTx.tx = .notice → u.notices ≠ []) := by
      have hr := h.responds
      have hn := h.notifies
      unfold PortUnit.startTx
      split_ifs <;> simp_all
    exact
      { keepalive := by simpa using h.keepalive
        counts := by simpa using h.counts
        buffer := by simpa using h.buffer
        execs := by simpa using h.execs
        statuses := by simpa [PortUnit.statusResponses] using h.statuses
        notices := by simpa using h.notices
        responds := by simpa using hsend.1
        notifies := by simpa using hsend.2
        waits := by simpa [PortUnit.hasExecResponse] using h.waits
        bodies := by simpa [PortUnit.bufferOk] using h.bodies }

/-! ### Notices and the ends of waits (R190, R199) -/

/-- A notice joins its queue, or is dropped with a flag set (R199). -/
theorem PortUnit.kept_takeNotice (p : PortId) (n : Notice) (u : PortUnit) : u.Kept (u.takeNotice p n) := by
  rcases u.takeNotice_cases p n with ⟨_, h⟩ | ⟨_, _, hroom, h⟩ | ⟨_, _, _, h⟩ | ⟨_, _, h⟩ <;> rw [h]
  · exact .refl u
  · refine ⟨rfl, id, fun w hw => ⟨w, hw, rfl⟩, fun hu => { hu with notices := ?_, notifies := ?_ }⟩
    · simpa using hroom
    · simp
  · exact ⟨rfl, id, fun w hw => ⟨w, hw, rfl⟩, fun hu => { hu with }⟩
  · exact ⟨rfl, id, fun w hw => ⟨w, hw, rfl⟩, fun hu => { hu with }⟩

theorem PortUnit.kept_noticed (p : PortId) (ns : List Notice) (u : PortUnit) : u.Kept (u.noticed p ns) :=
  List.foldlRecOn (motive := u.Kept) ns _ (.refl u) fun _ h n _ => h.trans (PortUnit.kept_takeNotice p n _)

/-- A waiting port has no execution response queued: that of the wait becomes the one (R179, R190). -/
theorem PortUnit.kept_waitEnded {u : PortUnit} {w : Wait} (hw : u.wait = some w) (st : Status) :
    u.Kept { u with
      wait := none
      responses := u.responses ++ [⟨true, w.tag, RequestCode.waitSettled.byte, st, []⟩] } where
  state := rfl
  idle h := absurd (hw.symm.trans h.1) (by simp)
  wait x hx := by simp at hx
  lawful hu := by
    have hnone := (u.hasExecResponse_eq_false).mp (hu.waits w hw).2.2
    exact
      { hu with
        execs := by simp [hnone]
        statuses := by simpa [PortUnit.statusResponses] using hu.statuses
        responds := by simp
        waits := by simp }

theorem PortUnit.kept_endWait (st : Status) (u : PortUnit) : u.Kept (u.endWait st) := by
  unfold PortUnit.endWait
  split
  · exact .refl u
  · next w hw => exact PortUnit.kept_waitEnded hw st

theorem PortUnit.endsWait.kept {c : WindowId → Prop} {u v : PortUnit} (h : u.endsWait c v) : u.Kept v := by
  rcases h with rfl | ⟨w, st, hw, _, rfl⟩
  · exact .refl _
  · exact PortUnit.kept_waitEnded hw st

/-! ### Second events, good frames, flags (R174, R178, R186, R190) -/

theorem PortUnit.kept_countSecond (u : PortUnit) : u.Kept u.countSecond where
  state := rfl
  idle h := ⟨by simp [PortUnit.countSecond, h.1], h.2⟩
  wait w hw := by
    obtain ⟨x, hx, rfl⟩ := Option.map_eq_some_iff.mp hw
    exact ⟨x, hx, rfl⟩
  lawful hu :=
    { hu with
      counts := Option.isSome_map.trans hu.counts
      waits := fun w hw => by
        obtain ⟨x, hx, rfl⟩ := Option.map_eq_some_iff.mp hw
        exact hu.waits x hx }

theorem PortUnit.kept_goodFrame (u : PortUnit) : u.Kept u.goodFrame where
  state := rfl
  idle h := h
  wait w hw := ⟨w, hw, rfl⟩
  lawful hu := { hu with counts := Option.isSome_map.trans hu.counts }

/-- Flags are no part of the laws. -/
theorem PortUnit.kept_flags (u : PortUnit) (f : PortFlags) : u.Kept { u with flags := f } :=
  ⟨rfl, id, fun w hw => ⟨w, hw, rfl⟩, fun hu => { hu with }⟩

/-! ### The receive buffer and the queues (R178, R179, R192) -/

/-- The body is that of a request frame that is not STATUS (R173, R174, R178). -/
def requestLike (body : List Byte) : Bool :=
  decide (3 ≤ body.length ∧ body.length ≤ 112) && body.head? == some 1 &&
    decide (body[2]? ≠ some RequestCode.status.byte)

theorem PortUnit.bufferOk_iff (u : PortUnit) : u.bufferOk = true ↔ ∀ body ∈ u.rx, requestLike body = true := by
  unfold PortUnit.bufferOk requestLike
  exact List.all_eq_true

theorem PortUnit.kept_buffer {body : List Byte} (hbody : requestLike body = true) (u : PortUnit) :
    u.Kept (u.buffer body) := by
  unfold PortUnit.buffer
  split_ifs with hroom
  · refine ⟨rfl, id, fun w hw => ⟨w, hw, rfl⟩, fun hu => { hu with buffer := ?_, bodies := ?_ }⟩
    · simpa using hroom
    · rw [PortUnit.bufferOk_iff]
      intro b hb
      rcases List.mem_append.mp hb with hb | hb
      · exact (u.bufferOk_iff.mp hu.bodies) b hb
      · exact List.mem_singleton.mp hb ▸ hbody
  · exact u.kept_flags _

/-- The oldest request leaves the buffer. -/
theorem PortUnit.kept_rest {u : PortUnit} {body : List Byte} {rest : List (List Byte)} (h : u.rx = body :: rest) :
    u.Kept { u with rx := rest } := by
  refine ⟨rfl, id, fun w hw => ⟨w, hw, rfl⟩, fun hu => { hu with buffer := ?_, bodies := ?_ }⟩
  · have := hu.buffer
    rw [h, List.length_cons] at this
    exact Nat.le_of_succ_le this
  · rw [PortUnit.bufferOk_iff]
    exact fun b hb => (u.bufferOk_iff.mp hu.bodies) b (h ▸ List.mem_cons_of_mem _ hb)

/-- A STATUS response is queued beside fewer than three (R179). -/
theorem PortUnit.kept_answerStatus {u : PortUnit} (h : u.statusResponses < 3) (tag : Byte) (st : Status)
    (results : List Byte) : u.Kept (u.answerStatus tag st results) where
  state := rfl
  idle hu := ⟨hu.1, by simpa [PortUnit.hasExecResponse, PortUnit.answerStatus] using hu.2⟩
  wait w hw := ⟨w, hw, rfl⟩
  lawful hu :=
    { hu with
      execs := by simpa [PortUnit.answerStatus] using hu.execs
      statuses := by simpa [PortUnit.statusResponses, PortUnit.answerStatus] using h
      responds := by simp [PortUnit.answerStatus]
      waits := fun w hw => by
        simpa [PortUnit.hasExecResponse, PortUnit.answerStatus] using hu.waits w hw }

theorem hasExecResponse_tail {u : PortUnit} (h : u.hasExecResponse = false) :
    (u.responses.tail.any (·.exec)) = false := by
  rw [PortUnit.hasExecResponse, List.any_eq_false] at h
  exact List.any_eq_false.mpr fun r hr => h r (List.mem_of_mem_tail hr)

/-- A frame sent leaves its queue (R192). -/
theorem PortUnit.kept_endTx (u : PortUnit) : u.Kept u.endTx := by
  unfold PortUnit.endTx
  split
  · exact .refl u
  · refine ⟨rfl, fun h => ⟨h.1, hasExecResponse_tail h.2⟩, fun w hw => ⟨w, hw, rfl⟩, fun hu => ?_⟩
    exact
      { hu with
        execs := (((List.tail_sublist _).filter _).length_le).trans hu.execs
        statuses := (((List.tail_sublist _).filter _).length_le).trans hu.statuses
        responds := by simp
        notifies := by simp
        waits := fun w hw => ⟨(hu.waits w hw).1, (hu.waits w hw).2.1, hasExecResponse_tail (hu.waits w hw).2.2⟩ }
  · refine ⟨rfl, id, fun w hw => ⟨w, hw, rfl⟩, fun hu => ?_⟩
    exact
      { hu with
        notices := ((List.tail_sublist _).length_le).trans hu.notices
        responds := by simp
        notifies := by simp }

/-! ### A port's own settings (R184, R185, R197, R201) -/

theorem PortUnit.emptyNotices_notices (u : PortUnit) :
    u.emptyNotices.notices.length ≤ u.notices.length ∧ (u.tx = .notice → u.notices ≠ [] → u.emptyNotices.notices ≠ []) := by
  unfold PortUnit.emptyNotices
  split_ifs with h
  · exact ⟨by simp, fun _ hn => by simpa using hn⟩
  · exact ⟨by simp, fun h2 => absurd h2 h⟩

/-- Emptying the notice queue leaves a notice in transmission (R184; log 10). -/
theorem PortUnit.kept_emptyNotices (u : PortUnit) : u.Kept u.emptyNotices := by
  obtain ⟨hlength, hsent⟩ := u.emptyNotices_notices
  refine ⟨rfl, id, fun w hw => ⟨w, hw, rfl⟩, fun hu => ?_⟩
  exact { hu with notices := hlength.trans hu.notices, notifies := fun h => hsent h (hu.notifies h) }

theorem PortUnit.kept_resetNotices (u : PortUnit) : u.Kept u.resetNotices :=
  ⟨rfl, id, fun w hw => ⟨w, hw, rfl⟩, fun hu => { hu with }⟩

theorem PortUnit.kept_filters (u : PortUnit) (f : Vector Filter 4) : u.Kept { u with filters := f } :=
  ⟨rfl, id, fun w hw => ⟨w, hw, rfl⟩, fun hu => { hu with }⟩

theorem PortUnit.kept_noticesEnabled (u : PortUnit) (on : Bool) : u.Kept { u with noticesEnabled := on } :=
  ⟨rfl, id, fun w hw => ⟨w, hw, rfl⟩, fun hu => { hu with }⟩

theorem PortUnit.kept_setNotices (on : Bool) (u : PortUnit) : u.Kept (u.setNotices on) := by
  have hoff : u.Kept { u.emptyNotices with noticesEnabled := false } :=
    u.kept_emptyNotices.trans (PortUnit.kept_noticesEnabled _ false)
  unfold PortUnit.setNotices
  simp only
  split_ifs
  · exact u.kept_noticesEnabled true
  · exact hoff.trans (PortUnit.kept_flags _ _)
  · exact hoff

/-! ### Changes of a port's state (R182, R184, R187) -/

/-- An execution response is queued at a port that has none and does not wait (R179). -/
theorem PortUnit.Lawful.answer {u : PortUnit} (h : u.Lawful) (hidle : u.idle) (tag code : Byte) (st : Status)
    (results : List Byte) : (u.answer tag code st results).Lawful :=
  { h with
    execs := by simp [PortUnit.answer, u.hasExecResponse_eq_false.mp hidle.2]
    statuses := by simpa [PortUnit.statusResponses, PortUnit.answer] using h.statuses
    responds := by simp [PortUnit.answer]
    waits := fun w hw => absurd (hidle.1.symm.trans hw) (by simp) }

theorem PortUnit.Lawful.attached {u : PortUnit} (h : u.Lawful) (hidle : u.idle) {keepalive : Nat}
    (hk : keepalive ≤ 60) (lossAction : LossAction) : (u.attached keepalive lossAction).Lawful := by
  have hrecord : PortUnit.Lawful { u with
      state := .attached, keepalive := keepalive, lossAction := lossAction,
      keepaliveCount := if keepalive = 0 then none else some 0 } :=
    { h with
      keepalive := hk
      counts := by by_cases h0 : keepalive = 0 <;> simp [h0]
      waits := fun w hw => absurd (hidle.1.symm.trans hw) (by simp) }
  unfold PortUnit.attached
  by_cases hd : u.state = .detached
  · rw [if_pos hd]
    exact (PortUnit.kept_resetNotices _).lawful hrecord
  · rw [if_neg hd]
    exact hrecord

theorem PortUnit.attached_idle {u : PortUnit} (h : u.idle) (keepalive : Nat) (lossAction : LossAction) :
    (u.attached keepalive lossAction).idle := by
  unfold PortUnit.attached
  simp only
  split_ifs <;> exact h

theorem PortUnit.attached_state (u : PortUnit) (keepalive : Nat) (lossAction : LossAction) :
    (u.attached keepalive lossAction).state = .attached := by
  unfold PortUnit.attached
  simp only
  split_ifs <;> rfl

theorem PortUnit.Lawful.detached {u : PortUnit} (h : u.Lawful) (hidle : u.idle) : u.detached.Lawful :=
  { h with
    counts := by simp [PortUnit.detached]
    waits := fun w hw => absurd (hidle.1.symm.trans hw) (by simp) }

/-- A wait begins at an idle port that is ATTACHED (R189). -/
theorem PortUnit.Lawful.waiting {u : PortUnit} (h : u.Lawful) (hidle : u.idle) (hstate : u.state = .attached)
    {w : Wait} (hw : 1 ≤ w.timeout ∧ w.timeout ≤ 60) : PortUnit.Lawful { u with wait := some w } :=
  { h with
    waits := fun x hx => by
      obtain rfl := Option.some.inj hx
      exact ⟨hstate, hw, hidle.2⟩ }

theorem PortUnit.Lawful.lose {u : PortUnit} (h : u.Lawful) : u.lose.Lawful :=
  { keepalive := h.keepalive
    counts := by simp [PortUnit.lose]
    buffer := by simp [PortUnit.lose]
    execs := by simp [PortUnit.lose]
    statuses := by simp [PortUnit.lose, PortUnit.statusResponses]
    notices := by simp [PortUnit.lose]
    responds := by simp [PortUnit.lose]
    notifies := by simp [PortUnit.lose]
    waits := by simp [PortUnit.lose]
    bodies := by simp [PortUnit.lose, PortUnit.bufferOk] }

theorem PortUnit.lose_idle (u : PortUnit) : u.lose.idle := ⟨rfl, rfl⟩

theorem PortUnit.powerOn_ok (u : PortUnit) : u.powerOn.Lawful :=
  { (PortUnit.ok_iff portReset).mp portReset_ok |>.1 with }

theorem PortUnit.canTake_idle {u : PortUnit} (h : u.canTake = true) : u.idle := by
  refine ⟨PortUnit.canTake_wait h, ?_⟩
  simp only [PortUnit.canTake, Bool.and_eq_true, Bool.not_eq_true'] at h
  exact h.1.2

end Sys2Proof.Machine
end

section
/-!
PROOF. The laws of all Port Units, of the supervisor and of the waits (O58) through the operations of an event.
`State.PortsKept` is what an event does that attaches, detaches and loses no port and opens no window's entry to
FREE; `State.PortLawsKept` is what every event does.
-/

namespace Sys2Proof.Machine

/-! ### The laws, and what keeps them -/

/-- The laws of O58 within an event. -/
structure State.PortLaws (s : State) : Prop where
  units : ∀ p : PortId, s.ports[p].Lawful
  supervisor : ∀ p : PortId, s.supervisor = some p → s.ports[p].state = .attached
  waits : ∀ (p : PortId) (w : Wait), s.ports[p].wait = some w → s.windows[w.window] ≠ none

/-- No transmitter is free beside a frame that waits: the event is over (R192). -/
def State.started (s : State) : Prop := ∀ p : PortId, s.ports[p].started

/-- The laws of O58 in a state that an event has left. -/
theorem State.portLaws_iff (s : State) : (s.portsOk = true ∧ s.supervisorOk = true ∧ s.waitsOk = true) ↔
    s.PortLaws ∧ s.started := by
  have hports : s.portsOk = true ↔ ∀ p : PortId, s.ports[p].Lawful ∧ s.ports[p].started := by
    rw [State.portsOk, vector_all_iff]
    exact forall_congr' fun p => PortUnit.ok_iff _
  have hsup : s.supervisorOk = true ↔ ∀ p : PortId, s.supervisor = some p → s.ports[p].state = .attached := by
    unfold State.supervisorOk
    cases s.supervisor <;> simp
  have hwaits : s.waitsOk = true ↔
      ∀ (p : PortId) (w : Wait), s.ports[p].wait = some w → s.windows[w.window] ≠ none := by
    rw [State.waitsOk, vector_all_iff]
    refine forall_congr' fun p => ?_
    cases s.ports[p].wait <;> simp [Option.isSome_iff_ne_none]
  rw [hports, hsup, hwaits]
  exact ⟨fun ⟨h, h2, h3⟩ => ⟨⟨fun p => (h p).1, h2, h3⟩, fun p => (h p).2⟩,
    fun ⟨⟨h, h2, h3⟩, h4⟩ => ⟨fun p => ⟨h p, h4 p⟩, h2, h3⟩⟩

/-- What an event does to the ports that attaches, detaches and loses none and closes no window. -/
structure State.PortsKept (s t : State) : Prop where
  units : ∀ p : PortId, s.ports[p].Kept t.ports[p]
  supervisor : t.supervisor = s.supervisor
  windows : ∀ i : WindowId, t.windows[i] = none → s.windows[i] = none

/-- What every event does: it keeps the laws, and idle ports idle. -/
structure State.PortLawsKept (s t : State) : Prop where
  laws : s.PortLaws → t.PortLaws
  idle : ∀ p : PortId, s.ports[p].idle → t.ports[p].idle

theorem State.PortsKept.trans {s t u : State} (h : s.PortsKept t) (g : t.PortsKept u) : s.PortsKept u :=
  ⟨fun p => (h.units p).trans (g.units p), g.supervisor.trans h.supervisor, fun i hi => h.windows i (g.windows i hi)⟩

theorem State.PortLawsKept.trans {s t u : State} (h : s.PortLawsKept t) (g : t.PortLawsKept u) : s.PortLawsKept u :=
  ⟨fun hs => g.laws (h.laws hs), fun p hp => g.idle p (h.idle p hp)⟩

theorem State.PortLawsKept.refl (s : State) : s.PortLawsKept s := ⟨id, fun _ => id⟩

theorem State.PortsKept.laws {s t : State} (h : s.PortsKept t) : s.PortLawsKept t where
  laws hs :=
    { units := fun p => (h.units p).lawful (hs.units p)
      supervisor := fun p hp => (h.units p).state.trans (hs.supervisor p (h.supervisor.symm.trans hp))
      waits := fun p w hw hnone => by
        obtain ⟨x, hx, hxw⟩ := (h.units p).wait w hw
        have hclosed := h.windows _ hnone
        rw [← hxw] at hclosed
        exact hs.waits p x hx hclosed }
  idle p hp := (h.units p).idle hp

theorem State.PortsKept.of_ports {s t : State} (hp : t.ports = s.ports) (hs : t.supervisor = s.supervisor)
    (hw : t.windows = s.windows) : s.PortsKept t :=
  ⟨fun p => by rw [hp]; exact .refl _, hs, fun _ hi => hw ▸ hi⟩

theorem State.PortsKept.refl (s : State) : s.PortsKept s := .of_ports rfl rfl rfl

/-- Every port takes notices and may end its wait, and no window closes. -/
theorem State.handed.portsKept {s t : State} {ns : List Notice} (h : s.handed t ns)
    (hs : t.supervisor = s.supervisor) (hw : t.windows = s.windows) : s.PortsKept t :=
  ⟨fun p => (PortUnit.kept_noticed p ns _).trans (h p).kept, hs, fun _ hi => hw ▸ hi⟩

/-! ### The parts of an event -/

/-- The operation attaches, detaches and loses no port, and closes no window. -/
def KeepsPorts (f : State → State) : Prop := ∀ s : State, s.PortsKept (f s)

theorem KeepsPorts.comp {f g : State → State} (hf : KeepsPorts f) (hg : KeepsPorts g) : KeepsPorts fun s => g (f s) :=
  fun s => (hf s).trans (hg (f s))

/-- The operation after what already kept the ports. -/
theorem KeepsPorts.after {g : State → State} (hg : KeepsPorts g) {s u : State} (h : s.PortsKept u) :
    s.PortsKept (g u) := h.trans (hg u)

theorem keepsPorts_modifyPort (p : PortId) {f : PortUnit → PortUnit} (hf : ∀ u : PortUnit, u.Kept (f u)) :
    KeepsPorts (State.modifyPort p f) := fun s =>
  ⟨fun q => by
    rw [Fin.getElem_fin, Fin.getElem_fin, State.modifyPort_port]
    split_ifs
    · exact hf _
    · exact .refl _, rfl, fun _ => id⟩

theorem keepsPorts_mapPorts {f : PortId → PortUnit → PortUnit} (hf : ∀ (p : PortId) (u : PortUnit), u.Kept (f p u)) :
    KeepsPorts (State.mapPorts f) := fun s =>
  ⟨fun q => by
    rw [Fin.getElem_fin, Fin.getElem_fin, State.mapPorts_port]
    exact hf q _, rfl, fun _ => id⟩

theorem keepsPorts_finish : KeepsPorts State.finish := keepsPorts_mapPorts fun _ u => u.kept_startTx

theorem State.started_finish (s : State) : s.finish.started := fun p => by
  rw [Fin.getElem_fin, State.finish_port]
  exact PortUnit.startTx_started _

theorem keepsPorts_endWaits (st : Status) (ends : WindowId → Bool) : KeepsPorts (State.endWaits st ends) :=
  keepsPorts_mapPorts fun _ u => by
    split
    · split_ifs
      · exact u.kept_endWait st
      · exact .refl u
    · exact .refl u

theorem State.drawnTo.portsKept {s t : State} (h : s.drawnTo t) : s.PortsKept t := by
  obtain ⟨ns, hns⟩ : ∃ ns, s.handed t ns := by
    have hnotices := h.2.2.2.2.2
    split_ifs at hnotices
    · exact ⟨_, hnotices.2⟩
    · exact ⟨_, hnotices.2.2.2⟩
  exact hns.portsKept (by rw [h.1]) (by rw [h.1])

theorem keepsPorts_compositorEvent (before : View) (ns : List TileId) :
    KeepsPorts (State.compositorEvent before ns) := fun s => (s.drawnPlain_compositorEvent before ns).drawn.portsKept

theorem State.listedTo.portsKept {s t : State} {ns : List Notice} (h : s.listedTo ns t) : s.PortsKept t := by
  obtain ⟨hframe, _, _, _, ms, hms | hms, _⟩ := h
  · exact hms.portsKept (by rw [hframe]) (by rw [hframe])
  · exact hms.portsKept (by rw [hframe]) (by rw [hframe])

theorem keepsPorts_driveReact : KeepsPorts State.driveReact := fun s => s.drawnTo_driveReact.portsKept

theorem keepsPorts_composed (before : View) (ns : List TileId) : KeepsPorts (State.composed before ns) := fun s =>
  (s.drawnTo_composed before ns).portsKept

theorem HandsOnly.keepsPorts_listEvent {f : State → State} (hf : HandsOnly f) : KeepsPorts (State.listEvent f) :=
  fun s => by
    obtain ⟨ns, hns⟩ := hf.2 s
    exact (State.listedTo_listEvent hf.1 hns).portsKept

theorem HandsOnly.keepsPorts_listChange {f : State → State} (hf : HandsOnly f) : KeepsPorts (State.listChange f) :=
  fun s => by
    obtain ⟨ns, hns⟩ := hf.2 s
    exact (State.listedTo_listChange hf.1 hns).portsKept

theorem keepsPorts_reachOn : KeepsPorts State.reachOn := fun s =>
  s.reachOn_effects.2.2.2.2.2.portsKept (by rw [s.reachOn_frame]) (by rw [s.reachOn_frame])

theorem keepsPorts_enterRising : KeepsPorts State.enterRising := fun s => by
  unfold State.enterRising
  split_ifs
  · exact keepsPorts_reachOn s
  · exact .of_ports rfl rfl rfl

theorem keepsPorts_testChange {f : State → State} (hf : KeepsPorts f) : KeepsPorts (State.testChange f) := fun s => by
  unfold State.testChange
  split_ifs
  · exact hf s
  · exact (keepsPorts_composed _ _).after (hf s)

theorem keepsPorts_setRail (r : RailState) : KeepsPorts (State.setRail r) := fun _ => .of_ports rfl rfl rfl

theorem keepsPorts_setAttempts (n : Nat) : KeepsPorts (State.setAttempts n) := fun _ => .of_ports rfl rfl rfl

theorem keepsPorts_setRemoteTest (b : Bool) : KeepsPorts (State.setRemoteTest b) :=
  keepsPorts_testChange fun _ => .of_ports rfl rfl rfl

theorem keepsPorts_setBlank (b : Bool) : KeepsPorts (State.setBlank b) := fun s => by
  unfold State.setBlank
  split_ifs
  · exact .refl s
  · exact (keepsPorts_composed _ _).after (.of_ports rfl rfl rfl)

theorem keepsPorts_markTiles (ns : List TileId) (which : TileRec → Bool) : KeepsPorts (State.markTiles ns which) :=
  fun _ => keepsPorts_driveReact.after (.of_ports rfl rfl rfl)

theorem keepsPorts_chooseSource : KeepsPorts State.chooseSource := fun s =>
  .of_ports (State.chooseSource_ports s) (State.chooseSource_supervisor s) (State.chooseSource_windows s)

theorem keepsPorts_heardSince (b : State) : KeepsPorts (State.heardSince b) := fun s =>
  .of_ports (State.heardSince_ports s b) (State.heardSince_supervisor s b) (State.heardSince_windows s b)

/-! ### A port's end: its role and its windows (R27, R42, R183) -/

/-- The laws where one port, that may still hold the role, need not be ATTACHED. -/
structure State.PortLawsBut (s : State) (p : PortId) : Prop where
  units : ∀ q : PortId, s.ports[q].Lawful
  supervisor : ∀ q : PortId, q ≠ p → s.supervisor = some q → s.ports[q].state = .attached
  waits : ∀ (q : PortId) (w : Wait), s.ports[q].wait = some w → s.windows[w.window] ≠ none

/-- A unit changed to another lawful one that waits no more than it did. -/
theorem State.PortLaws.modifyPort {s : State} (h : s.PortLaws) {p : PortId} {f : PortUnit → PortUnit}
    (hf : (f s.ports[p]).Lawful) (hw : ∀ w, (f s.ports[p]).wait = some w → s.windows[w.window] ≠ none) :
    (s.modifyPort p f).PortLawsBut p where
  units q := by
    rw [Fin.getElem_fin, State.modifyPort_port]
    split_ifs with hq
    · exact hq ▸ hf
    · exact h.units q
  supervisor q hq hsup := by
    rw [Fin.getElem_fin, State.modifyPort_port_ne _ hq]
    exact h.supervisor q hsup
  waits q w hqw := by
    rw [Fin.getElem_fin, State.modifyPort_port] at hqw
    split_ifs at hqw with hq
    · exact hw w (hq ▸ hqw)
    · exact h.waits q w hqw

theorem State.PortLawsBut.laws {s : State} {p : PortId} (h : s.PortLawsBut p)
    (hp : s.supervisor = some p → s.ports[p].state = .attached) : s.PortLaws :=
  ⟨h.units, fun q hq => by
    by_cases hqp : q = p
    · exact hqp ▸ hp (hqp ▸ hq)
    · exact h.supervisor q hqp hq, h.waits⟩

/-- The role that the port still holds is released (R183). -/
theorem State.PortLawsBut.releaseRole {s : State} {p : PortId} (h : s.PortLawsBut p) : (s.releaseRole p).PortLaws := by
  unfold State.releaseRole
  split_ifs with hs
  · refine (keepsPorts_setRemoteTest false _).laws.laws (State.PortLawsBut.laws (p := p) ?_ nofun)
    exact ⟨h.units, nofun, h.waits⟩
  · exact h.laws fun hp => absurd hp hs

theorem State.idle_releaseRole {s : State} {p q : PortId} (h : s.ports[q].idle) : (s.releaseRole p).ports[q].idle := by
  unfold State.releaseRole
  split_ifs
  · exact ((keepsPorts_setRemoteTest false { s with supervisor := none }).units q).idle h
  · exact h

theorem State.portLawsKept_releaseRole (p : PortId) (s : State) : s.PortLawsKept (s.releaseRole p) :=
  ⟨fun h => State.PortLawsBut.releaseRole ⟨h.units, fun q _ => h.supervisor q, h.waits⟩,
    fun _ hq => State.idle_releaseRole hq⟩

/-- Windows close, and the waits on them end (R27, R42). -/
theorem State.portLawsKept_closeWindows (is : List WindowId) (s : State) : s.PortLawsKept (s.closeWindows is) := by
  unfold State.closeWindows
  split_ifs
  · exact .refl s
  refine State.PortLawsKept.trans ?_ (keepsPorts_composed _ _ _).laws
  generalize hu : ({ s with windows := is.foldl (fun ws (i : WindowId) => ws.set i none) s.windows } : State) = u
  have hports : u.ports = s.ports := by rw [← hu]
  have hended : u.PortsKept (u.endWaits .windowGone fun i => is.contains i) := keepsPorts_endWaits _ _ u
  refine ⟨fun h => ⟨fun p => (hended.units p).lawful (hports ▸ h.units p), fun p hp => ?_, fun p w hw => ?_⟩,
    fun p hp => (hended.units p).idle (hports ▸ hp)⟩
  · have hsup : s.supervisor = some p := by rw [← hp, ← hu]; rfl
    exact (hended.units p).state.trans (hports ▸ h.supervisor p hsup)
  · rw [Fin.getElem_fin, State.endWaits_port] at hw
    change u.windows[w.window] ≠ none
    cases hv : u.ports[(p : Nat)].wait with
    | none =>
      rw [hv] at hw
      exact absurd (hv.symm.trans hw) (by simp)
    | some v =>
      rw [hv] at hw
      simp only at hw
      split_ifs at hw with hgone
      · simp [PortUnit.endWait, hv, PortUnit.answer] at hw
      · obtain rfl := Option.some.inj (hv.symm.trans hw)
        rw [← hu]
        change (is.foldl (fun ws (i : WindowId) => ws.set i none) s.windows)[v.window] ≠ none
        rw [State.foldl_free, if_neg (by simpa using hgone)]
        exact h.waits p v (by rw [← hports]; exact hv)

/-- The loss of a port (R187). -/
theorem State.portLawsKept_losePort (p : PortId) (s : State) : s.PortLawsKept (s.losePort p) := by
  have hrole : s.PortLawsKept ((s.modifyPort p PortUnit.lose).releaseRole p) := by
    refine ⟨fun h => (h.modifyPort (h.units p).lose nofun).releaseRole, fun q hq => State.idle_releaseRole ?_⟩
    rw [Fin.getElem_fin, State.modifyPort_port]
    split_ifs
    · exact PortUnit.lose_idle _
    · exact hq
  unfold State.losePort
  cases decide (s.ports[p].lossAction = .close) with
  | true =>
    exact (hrole.trans (State.portLawsKept_closeWindows _ _)).trans
      (((handsOnly_clearPort p).comp (handsOnly_raisePortLost p)).keepsPorts_listEvent _).laws
  | false => exact hrole.trans ((handsOnly_raisePortLost p).keepsPorts_listEvent _).laws

/-! ### Events taken whole -/

/-- The operation keeps the laws, and idle ports idle. -/
def KeepsPortLaws (f : State → State) : Prop := ∀ s : State, s.PortLawsKept (f s)

theorem KeepsPortLaws.comp {f g : State → State} (hf : KeepsPortLaws f) (hg : KeepsPortLaws g) :
    KeepsPortLaws fun s => g (f s) := fun s => (hf s).trans (hg (f s))

theorem KeepsPorts.laws {f : State → State} (hf : KeepsPorts f) : KeepsPortLaws f := fun s => (hf s).laws

theorem KeepsPortLaws.whole {f : State → State} (hf : KeepsPortLaws f) : KeepsPortLaws (State.whole f) := fun s =>
  ((hf s).trans (keepsPorts_heardSince s _).laws).trans (keepsPorts_finish _).laws

theorem KeepsPorts.whole {f : State → State} (hf : KeepsPorts f) : KeepsPortLaws (State.whole f) := hf.laws.whole

/-! ### The due events (log 2) -/

theorem keepsPorts_completeJob (e : EngineId) : KeepsPorts (State.completeJob e) := fun s => by
  unfold State.completeJob
  split
  · split_ifs
    · unfold State.finishJob
      simp only
      split_ifs
      · exact keepsPorts_driveReact.after ((keepsPorts_endWaits _ _).after (.of_ports rfl rfl rfl))
      · exact keepsPorts_driveReact.after (.of_ports rfl rfl rfl)
    · exact .refl s
  · exact .refl s

theorem keepsPorts_expireRefresh : KeepsPorts State.expireRefresh := fun s => by
  unfold State.expireRefresh
  split_ifs
  · exact (keepsPorts_markTiles _ _).after (.of_ports rfl rfl rfl)
  · exact .refl s

theorem keepsPorts_raiseDriveFault : KeepsPorts (State.listEvent State.raiseDriveFault) :=
  handsOnly_raiseDriveFault.keepsPorts_listEvent

theorem keepsPorts_expireRise : KeepsPorts State.expireRise := fun s => by
  unfold State.expireRise
  split
  · simp only
    split_ifs
    · exact keepsPorts_raiseDriveFault.after (.of_ports rfl rfl rfl)
    · exact keepsPorts_raiseDriveFault.after (.of_ports rfl rfl rfl)
    · exact .of_ports rfl rfl rfl
    · exact .of_ports rfl rfl rfl
  · exact .refl s

theorem keepsPorts_expireHold : KeepsPorts State.expireHold := fun s => by
  unfold State.expireHold
  split
  · exact .of_ports rfl rfl rfl
  · exact .refl s

theorem keepsPorts_expireFall : KeepsPorts State.expireFall := fun s => by
  unfold State.expireFall
  split
  · exact keepsPorts_driveReact.after (.of_ports rfl rfl rfl)
  · exact .refl s

theorem keepsPorts_expireRetry : KeepsPorts State.expireRetry := fun s => by
  unfold State.expireRetry
  split
  · exact keepsPorts_enterRising s
  · exact .refl s

theorem keepsPorts_assertPowerGood : KeepsPorts State.assertPowerGood := fun s => by
  unfold State.assertPowerGood
  simp only
  split
  · exact keepsPorts_reachOn.after (.of_ports rfl rfl rfl)
  · exact .of_ports rfl rfl rfl

theorem keepsPorts_abandonJobs : KeepsPorts State.abandonJobs := fun s =>
  List.foldlRecOn (motive := s.PortsKept) engineIds _ (.refl s) fun u hu e _ => hu.trans (by
    unfold State.abandonJob
    split
    · exact .refl u
    · exact .of_ports rfl rfl rfl)

theorem keepsPorts_losePowerGood : KeepsPorts State.losePowerGood := fun s => by
  have hlevel : s.PortsKept { s with powerGood := false } := .of_ports rfl rfl rfl
  unfold State.losePowerGood
  simp only
  split_ifs
  · have habandoned := keepsPorts_abandonJobs.after hlevel
    exact keepsPorts_raiseDriveFault.after ((keepsPorts_setRail _).after ((keepsPorts_setAttempts 1).after habandoned))
  · exact hlevel

theorem keepsPorts_jobStart : KeepsPorts fun s => s.handOne.checkHold := fun _ =>
  .of_ports (by simp) (by simp) (by simp)

theorem keepsPorts_pressAck : KeepsPorts State.pressAck := fun s => by
  unfold State.pressAck
  split_ifs
  · exact handsOnly_acknowledgeFirst.keepsPorts_listEvent.after (.of_ports rfl rfl rfl)
  · exact .refl s

theorem keepsPorts_releaseAck : KeepsPorts State.releaseAck := fun s => by
  unfold State.releaseAck
  split_ifs
  · exact .of_ports rfl rfl rfl
  · exact .refl s

theorem keepsPorts_holdAck : KeepsPorts State.holdAck := fun s => by
  unfold State.holdAck
  split_ifs
  · exact handsOnly_acknowledgeEligible.keepsPorts_listEvent.after (.of_ports rfl rfl rfl)
  · exact .refl s

theorem keepsPorts_pressSilence : KeepsPorts State.pressSilence := fun s => by
  unfold State.pressSilence
  split_ifs
  · exact keepsPorts_chooseSource.after (keepsPorts_driveReact.after
      (handsOnly_silenceAll.keepsPorts_listChange.after (.of_ports rfl rfl rfl)))
  · exact .refl s

theorem keepsPorts_releaseSilence : KeepsPorts State.releaseSilence := fun s => by
  unfold State.releaseSilence
  split_ifs
  · exact .of_ports rfl rfl rfl
  · exact .refl s

theorem keepsPorts_takeTest : KeepsPorts State.takeTest := keepsPorts_testChange fun _ => .of_ports rfl rfl rfl

theorem keepsPorts_pressTest : KeepsPorts State.pressTest := fun s => by
  unfold State.pressTest
  split_ifs
  · exact keepsPorts_takeTest s
  · exact .refl s

theorem keepsPorts_releaseTest : KeepsPorts State.releaseTest := fun s => by
  unfold State.releaseTest
  split_ifs
  · exact keepsPorts_takeTest s
  · exact .refl s

theorem keepsPorts_endPattern (pt : Pattern) : KeepsPorts (State.endPattern pt) := fun s => by
  unfold State.endPattern
  split
  · exact .of_ports rfl rfl rfl
  · exact keepsPorts_chooseSource.after (keepsPorts_driveReact.after
      ((handsOnly_silenceEnded _ _).keepsPorts_listChange.after (.of_ports rfl rfl rfl)))
  · exact keepsPorts_chooseSource.after (.of_ports rfl rfl rfl)

theorem keepsPorts_setPattern (pt : Pattern) : KeepsPorts (State.setPattern pt) := fun _ => .of_ports rfl rfl rfl

theorem keepsPorts_endPeriod : KeepsPorts State.endPeriod := fun s => by
  unfold State.endPeriod
  split
  · exact .refl s
  · simp only
    split
    · split_ifs
      · exact keepsPorts_setPattern _ s
      · exact keepsPorts_endPattern _ s
      · exact keepsPorts_setPattern _ s
    · split_ifs
      · exact keepsPorts_endPattern _ s
      · exact keepsPorts_setPattern _ s
    · exact .refl s

theorem keepsPorts_takeSecond : KeepsPorts State.takeSecond := fun s => by
  unfold State.takeSecond
  by_cases hdue : s.time.secondDue = true
  · rw [if_pos hdue]
    exact (keepsPorts_mapPorts fun _ u => u.kept_countSecond).after (.of_ports rfl rfl rfl)
  · rw [if_neg hdue]
    exact .refl s

theorem keepsPorts_takeBlink : KeepsPorts State.takeBlink := fun s => by
  unfold State.takeBlink
  split_ifs
  · exact (keepsPorts_composed _ _).after (.of_ports rfl rfl rfl)
  · exact .refl s

theorem keepsPorts_expireShelving : KeepsPorts State.expireShelving := fun s => by
  unfold State.expireShelving
  split_ifs
  · exact handsOnly_unshelveExpired.keepsPorts_listEvent.after (.of_ports rfl rfl rfl)
  · exact .refl s

theorem keepsPorts_timeOutWait (p : PortId) : KeepsPorts (State.timeOutWait p) := fun s => by
  unfold State.timeOutWait
  split_ifs
  · exact keepsPorts_modifyPort p (fun u => u.kept_endWait .timeout) s
  · exact .refl s

theorem keepsPortLaws_loseIfDue (p : PortId) : KeepsPortLaws (State.loseIfDue p) := fun s => by
  unfold State.loseIfDue
  split_ifs
  · exact State.portLawsKept_losePort p s
  · exact .refl s

/-- Every due event, taken whole, keeps the laws of the ports. -/
theorem keepsPortLaws_due (d : Due) : KeepsPortLaws (State.whole d.act) := by
  cases d with
  | completion e => exact (keepsPorts_completeJob e).whole
  | rise => exact keepsPorts_expireRise.whole
  | hold => exact keepsPorts_expireHold.whole
  | fall => exact keepsPorts_expireFall.whole
  | retry => exact keepsPorts_expireRetry.whole
  | period => exact keepsPorts_endPeriod.whole
  | ackPress => exact keepsPorts_pressAck.whole
  | ackRelease => exact keepsPorts_releaseAck.whole
  | ackHold => exact keepsPorts_holdAck.whole
  | silencePress => exact keepsPorts_pressSilence.whole
  | silenceRelease => exact keepsPorts_releaseSilence.whole
  | testPress => exact keepsPorts_pressTest.whole
  | testRelease => exact keepsPorts_releaseTest.whole
  | second => exact keepsPorts_takeSecond.whole
  | blink => exact keepsPorts_takeBlink.whole
  | shelving => exact keepsPorts_expireShelving.whole
  | refresh => exact keepsPorts_expireRefresh.whole
  | loss p => exact (keepsPortLaws_loseIfDue p).whole
  | waitEnd p => exact (keepsPorts_timeOutWait p).whole

theorem keepsPortLaws_settle : KeepsPortLaws State.settle := fun s =>
  State.settle_induct (P := s.PortLawsKept)
    (fun u n hu => hu.trans (State.PortsKept.of_ports rfl rfl rfl : u.PortsKept { u with choices := n }).laws)
    (fun u d _ hu => hu.trans (keepsPortLaws_due d u)) (.refl s)

theorem keepsPortLaws_lossFirst (p : PortId) : KeepsPortLaws (State.lossFirst p) := fun s => by
  unfold State.lossFirst
  split_ifs
  · exact KeepsPortLaws.whole (State.portLawsKept_losePort p) s
  · exact .refl s

theorem keepsPortLaws_secondFirst (p : PortId) : KeepsPortLaws (State.secondFirst p) := fun s => by
  have hsecond : s.PortLawsKept (if s.time.secondDue then s.whole State.takeSecond else s) := by
    split_ifs
    · exact keepsPorts_takeSecond.whole s
    · exact .refl s
  exact hsecond.trans (keepsPortLaws_lossFirst p _)

theorem keepsPortLaws_expiryFirst : KeepsPortLaws State.expiryFirst := fun s => by
  unfold State.expiryFirst
  split_ifs
  · exact keepsPorts_expireRefresh.whole s
  · exact .refl s

end Sys2Proof.Machine
end

section
/-!
PROOF. The laws of the Port Units through every request and every row (O58): a request is taken where its port is
idle, and its response is queued where the port still is. O58 is the last theorem.
-/

namespace Sys2Proof.Machine

/-! ### Admission (R180, R181; log 8) -/

/-- Taken at an idle port, the request keeps the laws. -/
def RequestKeepsPorts (p : PortId) (request : State → State) : Prop :=
  ∀ s : State, s.PortLaws → s.ports[p].idle → (request s).PortLaws

/-- An execution response is queued at an idle port (R179). -/
theorem State.PortLaws.answer {s : State} (h : s.PortLaws) {p : PortId} (hp : s.ports[p].idle) (tag code : Byte)
    (st : Status) (results : List Byte) : (s.modifyPort p (·.answer tag code st results)).PortLaws := by
  refine (h.modifyPort ((h.units p).answer hp tag code st results) (h.waits p)).laws fun hsup => ?_
  rw [Fin.getElem_fin, State.modifyPort_port_self]
  exact h.supervisor p hsup

/-- The work of a request at an idle port keeps the laws and, where it answers at once, leaves the port idle. -/
def RunKeepsPorts (p : PortId) (run : State → State × Reply) (s : State) : Prop :=
  (run s).1.PortLaws ∧ ((run s).2 ≠ none → (run s).1.ports[p].idle)

theorem requestKeepsPorts_admission {p : PortId} {tag : Byte} {rc : RequestCode} {lengthOk inRange sup : Bool}
    {run : State → State × Reply} (h : inRange = true → ∀ s : State, s.PortLaws → s.ports[p].idle →
      (rc ≠ .attach → s.ports[p].state = .attached) → RunKeepsPorts p run s) :
    RequestKeepsPorts p (admission p tag rc lengthOk inRange sup run) := fun s hs hp => by
  unfold admission
  split_ifs with hattached hlength hrange hsup
  · exact hs.answer hp _ _ _ _
  · exact hs.answer hp _ _ _ _
  · exact hs.answer hp _ _ _ _
  · exact hs.answer hp _ _ _ _
  · obtain ⟨hlaws, hidle⟩ := h (by simpa using hrange) s hs hp fun hrc => by
      by_contra hne
      exact hattached ⟨hrc, hne⟩
    have hheard := (keepsPorts_heardSince s (run s).1).laws
    unfold State.reply
    split
    · exact hheard.laws hlaws
    · next hreply => exact (hheard.laws hlaws).answer (hheard.idle p (hidle (by simp [hreply]))) _ _ _ _

theorem State.PortLawsKept.run {p : PortId} {run : State → State × Reply} {s : State}
    (h : s.PortLawsKept (run s).1) (hs : s.PortLaws) (hp : s.ports[p].idle) : RunKeepsPorts p run s :=
  ⟨h.laws hs, fun _ => h.idle p hp⟩

/-- A request whose work is an event like any other. -/
theorem requestKeepsPorts_of_kept {p : PortId} {tag : Byte} {rc : RequestCode} {lengthOk inRange sup : Bool}
    {run : State → State × Reply} (h : ∀ s : State, s.PortLawsKept (run s).1) :
    RequestKeepsPorts p (admission p tag rc lengthOk inRange sup run) :=
  requestKeepsPorts_admission fun _ s hs hp _ => (h s).run hs hp

/-- Work after the events left due. -/
theorem runKeepsPorts_afterDue {p : PortId} {first : State → State} {run : State → State × Reply}
    (hf : KeepsPortLaws first) {s : State} (hs : s.PortLaws) (hp : s.ports[p].idle)
    (hr : (first s).ports[p].state = s.ports[p].state → (first s).PortLaws → (first s).ports[p].idle →
      RunKeepsPorts p run (first s)) : RunKeepsPorts p (afterDue p first run) s := by
  unfold RunKeepsPorts afterDue
  split_ifs with hsame
  · exact hr hsame ((hf s).laws hs) ((hf s).idle p hp)
  · exact ⟨(hf s).laws hs, fun h => absurd rfl h⟩

theorem requestKeepsPorts_badLength (p : PortId) (tag : Byte) (rc : RequestCode) :
    RequestKeepsPorts p (badLength p tag rc) := requestKeepsPorts_of_kept fun s => .refl s

/-! ### The port requests -/

theorem State.idle_modifyPort {s : State} {p : PortId} {f : PortUnit → PortUnit} (h : (f s.ports[p]).idle) :
    (s.modifyPort p f).ports[p].idle := by
  rw [Fin.getElem_fin, State.modifyPort_port_self]
  exact h

/-- An accepted ATTACH: the port is ATTACHED before the role is set (R182, R183). -/
theorem runKeepsPorts_attach {p : PortId} {role keepalive lossAction : Byte} (hk : keepalive.toNat ≤ 60) {s : State}
    (hs : s.PortLaws) (hp : s.ports[p].idle) : RunKeepsPorts p (State.attach p role keepalive lossAction) s := by
  have hidle := State.idle_modifyPort (s := s) (p := p)
    (f := (·.attached keepalive.toNat (if yes lossAction then .close else .keep))) (PortUnit.attached_idle hp _ _)
  have hbut := hs.modifyPort (f := (·.attached keepalive.toNat (if yes lossAction then .close else .keep)))
    ((hs.units p).attached hp hk _) fun w hw => absurd ((PortUnit.attached_idle hp _ _).1.symm.trans hw) (by simp)
  have hstate : (s.modifyPort p (·.attached keepalive.toNat
      (if yes lossAction then .close else .keep))).ports[p].state = .attached := by
    rw [Fin.getElem_fin, State.modifyPort_port_self]
    exact PortUnit.attached_state _ _ _
  unfold RunKeepsPorts State.attach
  simp only
  generalize s.modifyPort p (·.attached keepalive.toNat (if yes lossAction then .close else .keep)) = t at *
  have hrole : (t.takeRole p (yes role)).PortLaws ∧ (t.takeRole p (yes role)).ports[p].idle := by
    unfold State.takeRole
    split_ifs
    · exact ⟨State.PortLawsBut.laws (p := p) ⟨hbut.units, fun q hq hsup => absurd (Option.some.inj hsup).symm hq,
        hbut.waits⟩ fun _ => hstate, hidle⟩
    · exact ⟨hbut.releaseRole, State.idle_releaseRole hidle⟩
  split_ifs
  · have hcleared := ((handsOnly_clear .system (portLostCode p)).keepsPorts_listEvent (t.takeRole p (yes role))).laws
    exact ⟨hcleared.laws hrole.1, fun _ => hcleared.idle p hrole.2⟩
  · exact ⟨hrole.1, fun _ => hrole.2⟩

theorem requestKeepsPorts_reqAttach (p : PortId) (tag role keepalive lossAction : Byte) :
    RequestKeepsPorts p (reqAttach p tag role keepalive lossAction) :=
  requestKeepsPorts_admission fun hrange s hs hp _ => by
    have hk : keepalive.toNat ≤ 60 := by
      simp only [attachOk, upTo, Bool.and_eq_true, decide_eq_true_eq] at hrange
      exact hrange.1.2
    unfold RunKeepsPorts runAttach
    split_ifs
    · exact ⟨hs, fun _ => hp⟩
    · exact runKeepsPorts_afterDue (keepsPortLaws_secondFirst p) hs hp fun _ ht hidle =>
        runKeepsPorts_attach hk ht hidle

theorem keepsPortLaws_clearPort (p : PortId) : KeepsPortLaws (State.listEvent (State.clearPort p)) :=
  (handsOnly_clearPort p).keepsPorts_listEvent.laws

theorem keepsPorts_emptied (p : PortId) : KeepsPorts (State.modifyPort p fun u => u.emptyNotices.resetNotices) :=
  keepsPorts_modifyPort p fun u => u.kept_emptyNotices.trans (PortUnit.kept_resetNotices _)

/-- The end of a port's notices, windows and records (R185). -/
theorem portLawsKept_runResetPort (p : PortId) (s : State) : s.PortLawsKept (runResetPort p s).1 :=
  ((keepsPorts_emptied p s).laws.trans (State.portLawsKept_closeWindows (State.windowsOf _ p) _)).trans
    (keepsPortLaws_clearPort p _)

/-- The port is DETACHED before it releases its role; what follows is the work of RESET_PORT (R184). -/
theorem requestKeepsPorts_reqDetach (p : PortId) (tag : Byte) : RequestKeepsPorts p (reqDetach p tag) :=
  requestKeepsPorts_admission fun _ s hs hp _ => by
    have hrole : ((s.modifyPort p PortUnit.detached).releaseRole p).PortLaws :=
      (hs.modifyPort ((hs.units p).detached hp) (hs.waits p)).releaseRole
    have hidle : ((s.modifyPort p PortUnit.detached).releaseRole p).ports[p].idle :=
      State.idle_releaseRole (State.idle_modifyPort hp)
    exact State.PortLawsKept.run (run := runResetPort p) (portLawsKept_runResetPort p _) hrole hidle

theorem requestKeepsPorts_reqResetPort (p : PortId) (tag : Byte) : RequestKeepsPorts p (reqResetPort p tag) :=
  requestKeepsPorts_of_kept (portLawsKept_runResetPort p)

theorem State.portsKept_modifyPort (s : State) {p : PortId} {f : PortUnit → PortUnit}
    (hf : s.ports[p].Kept (f s.ports[p])) : s.PortsKept (s.modifyPort p f) :=
  ⟨fun q => by
    rw [Fin.getElem_fin, Fin.getElem_fin, State.modifyPort_port]
    split_ifs with hq
    · exact hq ▸ hf
    · exact .refl _, rfl, fun _ => id⟩

theorem keepsPorts_statusArrives (p : PortId) (tag : Byte) (extra : List Byte) :
    KeepsPorts (State.statusArrives p tag extra) := fun s => by
  unfold State.statusArrives
  split_ifs with hfull
  · exact s.portsKept_modifyPort (PortUnit.kept_flags _ _)
  · exact s.portsKept_modifyPort ((PortUnit.kept_answerStatus (Nat.not_le.mp hfull) _ _ _).trans
      (PortUnit.kept_flags _ _))
  · exact s.portsKept_modifyPort (PortUnit.kept_answerStatus (Nat.not_le.mp hfull) _ _ _)

theorem requestKeepsPorts_reqSetFilter (p : PortId) (tag filter enabled mode av am cv cm : Byte) :
    RequestKeepsPorts p (reqSetFilter p tag filter enabled mode av am cv cm) := requestKeepsPorts_of_kept fun s => by
  unfold runSetFilter
  dsimp only
  exact (s.portsKept_modifyPort (PortUnit.kept_filters _ _)).laws

theorem requestKeepsPorts_reqSetNotices (p : PortId) (tag setting : Byte) :
    RequestKeepsPorts p (reqSetNotices p tag setting) :=
  requestKeepsPorts_of_kept fun s => (s.portsKept_modifyPort (PortUnit.kept_setNotices _ _)).laws

/-- The window of a wait that begins after the events left due is still OPEN: none of them closes a window but the
loss of the request's own port, with which the request is gone. -/
theorem State.secondFirst_windows {s : State} {p : PortId}
    (h : (s.secondFirst p).ports[p].state = s.ports[p].state) : (s.secondFirst p).windows = s.windows := by
  unfold State.secondFirst at h ⊢
  have hsecond : (if s.time.secondDue then s.whole State.takeSecond else s).windows = s.windows := by
    split_ifs with hdue
    · rw [State.whole_takeSecond, State.takeSecond_of_due hdue]
      rfl
    · rfl
  have hstate : (if s.time.secondDue then s.whole State.takeSecond else s).ports[p].state = s.ports[p].state := by
    split_ifs with hdue
    · rw [State.whole_takeSecond]
      exact ((keepsPorts_finish.after (keepsPorts_takeSecond s)).units p).state
    · rfl
  generalize (if s.time.secondDue then s.whole State.takeSecond else s) = u at h hsecond hstate ⊢
  unfold State.lossFirst at h ⊢
  split_ifs at h ⊢ with hdue
  · have hattached : u.ports[p].state = .attached := by
      unfold PortUnit.lossDue at hdue
      simp only [Bool.and_eq_true, decide_eq_true_eq] at hdue
      exact hdue.1
    have hgone : (u.whole (State.losePort p)).ports[p].Gone :=
      (keepsDue_finish.after (keepsDue_heardSince u _)).gone (u.gone_losePort p)
    exact absurd (hgone.state.symm.trans (h.trans (hstate.symm.trans hattached))) (by decide)
  · exact hsecond

/-- A wait on an OPEN window begins at an idle port that is ATTACHED (R189). -/
theorem State.PortLaws.waiting {s : State} (h : s.PortLaws) {p : PortId} (hidle : s.ports[p].idle)
    (hstate : s.ports[p].state = .attached) {w : Wait} (hw : 1 ≤ w.timeout ∧ w.timeout ≤ 60)
    (hopen : s.windows[w.window] ≠ none) : (s.modifyPort p fun u => { u with wait := some w }).PortLaws := by
  refine (h.modifyPort (f := fun u => { u with wait := some w }) ((h.units p).waiting hidle hstate hw)
    fun x hx => ?_).laws fun _ => ?_
  · exact Option.some.inj hx ▸ hopen
  · rw [Fin.getElem_fin, State.modifyPort_port_self]
    exact hstate

theorem requestKeepsPorts_reqWaitSettled (p : PortId) (tag window timeout : Byte) :
    RequestKeepsPorts p (reqWaitSettled p tag window timeout) :=
  requestKeepsPorts_admission fun hrange s hs hp hattached => by
    have htimeout : 1 ≤ timeout.toNat ∧ timeout.toNat ≤ 60 := by
      simp only [waitSettledOk, within, Bool.and_eq_true, decide_eq_true_eq] at hrange
      exact hrange.2
    unfold RunKeepsPorts runWaitSettled
    split
    · exact ⟨hs, fun _ => hp⟩
    next w hopen =>
    split_ifs
    · exact ⟨hs, fun _ => hp⟩
    refine runKeepsPorts_afterDue (keepsPortLaws_secondFirst p) hs hp fun hsame ht hidle => ?_
    have hstate := hsame.trans (hattached (by simp))
    refine ⟨ht.waiting hidle (hsame.trans (hattached (by simp))) htimeout ?_, fun h => absurd rfl h⟩
    rw [State.secondFirst_windows hsame]
    exact hopen ▸ Option.some_ne_none w

/-! ### The window requests -/

/-- An OPEN entry is written. -/
theorem keepsPorts_setEntry (i : WindowId) (w : Window) : KeepsPorts (State.setEntry i (some w)) := fun s =>
  ⟨fun _ => .refl _, rfl, fun j hj => by
    rw [State.setEntry_windows, vector_set_get] at hj
    split_ifs at hj
    exact hj⟩

/-- An OPEN entry is written, and tiles are re-evaluated. -/
theorem keepsPorts_setEntry_composed (i : WindowId) (w : Window) (before : View) (ns : List TileId) :
    KeepsPorts fun s => (s.setEntry i (some w)).composed before ns :=
  (keepsPorts_setEntry i w).comp (keepsPorts_composed before ns)

theorem requestKeepsPorts_reqOpenWindow (p : PortId) (tag row col height width level : Byte) :
    RequestKeepsPorts p (reqOpenWindow p tag row col height width level) := requestKeepsPorts_of_kept fun s => by
  unfold runOpenWindow
  simp only
  split
  · exact .refl s
  · split_ifs
    · exact .refl s
    · exact .refl s
    · exact .refl s
    · exact (keepsPorts_setEntry_composed _ _ _ _ s).laws

theorem requestKeepsPorts_reqCloseWindow (p : PortId) (tag window : Byte) :
    RequestKeepsPorts p (reqCloseWindow p tag window) := requestKeepsPorts_of_kept fun s => by
  unfold runCloseWindow
  split
  · exact .refl s
  · split_ifs
    · exact .refl s
    · exact State.portLawsKept_closeWindows [windowOf window] s

theorem requestKeepsPorts_reqMoveWindow (p : PortId) (tag window row col level : Byte) :
    RequestKeepsPorts p (reqMoveWindow p tag window row col level) := requestKeepsPorts_of_kept fun s => by
  unfold runMoveWindow
  simp only
  split
  · exact .refl s
  · split_ifs
    · exact .refl s
    · exact .refl s
    · exact .refl s
    · exact (keepsPorts_driveReact.after ((keepsPorts_endWaits _ _).after
        ((keepsPorts_compositorEvent _ _).after (keepsPorts_setEntry _ _ s)))).laws

theorem requestKeepsPorts_reqSetWindow (p : PortId) (tag window visible deferred writers : Byte) :
    RequestKeepsPorts p (reqSetWindow p tag window visible deferred writers) := requestKeepsPorts_of_kept fun s => by
  unfold runSetWindow
  simp only
  split
  · exact .refl s
  · next w _ =>
    by_cases howner : w.owner ≠ p
    · rw [if_pos howner]
      exact .refl s
    · rw [if_neg howner]
      by_cases hspace : (yes deferred && !w.deferred && decide (s.freeCells < w.area)) = true
      · rw [if_pos hspace]
        exact .refl s
      · rw [if_neg hspace]
        simp only
        split_ifs
        · exact (keepsPorts_setEntry_composed _ _ _ _ s).laws
        · exact (keepsPorts_setEntry _ _ s).laws

theorem keepsPorts_writeContent (i : WindowId) (w : Window) (content : List CellValue) :
    KeepsPorts (State.writeContent i w content) := fun s => by
  unfold State.writeContent
  simp only
  split_ifs
  · exact keepsPorts_setEntry _ _ s
  · exact keepsPorts_setEntry_composed _ _ _ _ s

theorem requestKeepsPorts_reqWriteCells (p : PortId) (tag window row col : Byte) (cells : List Byte) :
    RequestKeepsPorts p (reqWriteCells p tag window row col cells) := requestKeepsPorts_of_kept fun s => by
  unfold runWriteCells
  simp only
  split
  · exact .refl s
  · split_ifs
    · exact .refl s
    · exact .refl s
    · exact (keepsPorts_writeContent _ _ _ s).laws

theorem requestKeepsPorts_reqFillCells (p : PortId) (tag window row col height width glyph attr : Byte) :
    RequestKeepsPorts p (reqFillCells p tag window row col height width glyph attr) :=
  requestKeepsPorts_of_kept fun s => by
    unfold runFillCells
    simp only
    split
    · exact .refl s
    · split_ifs
      · exact .refl s
      · exact .refl s
      · exact (keepsPorts_writeContent _ _ _ s).laws

theorem requestKeepsPorts_reqReadCells (p : PortId) (tag window row col count : Byte) :
    RequestKeepsPorts p (reqReadCells p tag window row col count) := requestKeepsPorts_of_kept fun s => by
  unfold runReadCells
  split
  · exact .refl s
  · split_ifs
    · exact .refl s
    · exact .refl s

theorem requestKeepsPorts_reqFlush (p : PortId) (tag window : Byte) : RequestKeepsPorts p (reqFlush p tag window) :=
  requestKeepsPorts_of_kept fun s => by
    unfold runFlush
    simp only
    split
    · exact .refl s
    · split_ifs
      · exact .refl s
      · exact (keepsPorts_setEntry_composed _ _ _ _ s).laws
      · exact .refl s

/-! ### The drive and rail requests -/

theorem requestKeepsPorts_reqFullRefresh (p : PortId) (tag selector window : Byte) :
    RequestKeepsPorts p (reqFullRefresh p tag selector window) := requestKeepsPorts_of_kept fun s => by
  unfold runFullRefresh
  split_ifs
  · split
    · exact .refl s
    · next w _ => exact (keepsPorts_markTiles w.rect.tiles (fun _ => true) s).laws
  · exact (keepsPorts_markTiles allTiles (fun _ => true) s).laws

theorem requestKeepsPorts_reqSetRefreshPeriod (p : PortId) (tag minutes : Byte) :
    RequestKeepsPorts p (reqSetRefreshPeriod p tag minutes) := requestKeepsPorts_admission fun _ _ hs hp _ =>
  runKeepsPorts_afterDue ((keepsPortLaws_secondFirst p).comp keepsPortLaws_expiryFirst) hs hp fun _ ht hidle =>
    State.PortLawsKept.run (State.PortsKept.laws (.of_ports rfl rfl rfl)) ht hidle

theorem requestKeepsPorts_reqSetHold (p : PortId) (tag seconds : Byte) :
    RequestKeepsPorts p (reqSetHold p tag seconds) :=
  requestKeepsPorts_of_kept fun _ => State.PortsKept.laws (.of_ports rfl rfl rfl)

theorem requestKeepsPorts_reqClearDriveFault (p : PortId) (tag : Byte) :
    RequestKeepsPorts p (reqClearDriveFault p tag) := requestKeepsPorts_of_kept fun s => by
  unfold runClearDriveFault
  simp only
  split_ifs
  · exact (keepsPorts_driveReact.after ((keepsPorts_setRail _).after (keepsPorts_setAttempts _ s))).laws
  · exact .refl s

/-! ### The list's requests -/

theorem requestKeepsPorts_reqRaiseAlert (p : PortId) (tag code area cls severity lamp tone : Byte)
    (message : List Byte) : RequestKeepsPorts p (reqRaiseAlert p tag code area cls severity lamp tone message) :=
  requestKeepsPorts_of_kept fun s => by
    unfold runRaiseAlert
    split_ifs
    · exact ((handsOnly_raise _ _ _).keepsPorts_listEvent s).laws
    · exact ((handsOnly_raise _ _ _).keepsPorts_listEvent s).laws

/-- LIST_OVERFLOW follows an operation on the list (R111). -/
theorem HandsOnly.overflow {f : State → State} (hf : HandsOnly f) :
    HandsOnly fun s => (f s).checkOverflow (portCount s.alerts) :=
  ⟨fun s => (hf.1.comp (listOnly_checkOverflow (portCount s.alerts))) s,
    fun s => (hf.comp (handsOnly_checkOverflow (portCount s.alerts))).2 s⟩

theorem requestKeepsPorts_reqClearAlert (p : PortId) (tag code : Byte) :
    RequestKeepsPorts p (reqClearAlert p tag code) := requestKeepsPorts_of_kept fun s => by
  unfold runClearAlert
  simp only
  split_ifs
  · exact .refl s
  · exact ((handsOnly_clear (.port p) code).overflow.keepsPorts_listEvent s).laws

theorem requestKeepsPorts_reqAckAlert (p : PortId) (tag source code : Byte) :
    RequestKeepsPorts p (reqAckAlert p tag source code) := requestKeepsPorts_of_kept fun s => by
  unfold runAckAlert
  simp only
  split_ifs
  · exact .refl s
  · exact .refl s
  · exact ((handsOnly_acknowledge (.port p) (sourceOf source) code).overflow.keepsPorts_listEvent s).laws

theorem requestKeepsPorts_reqShelveAlert (p : PortId) (tag source code : Byte) (seconds : BitVec 16) :
    RequestKeepsPorts p (reqShelveAlert p tag source code seconds) := requestKeepsPorts_of_kept fun s => by
  unfold runShelveAlert
  simp only
  split_ifs
  · exact .refl s
  · exact ((handsOnly_shelve _ _ _).keepsPorts_listEvent s).laws

theorem requestKeepsPorts_reqUnshelveAlert (p : PortId) (tag source code : Byte) :
    RequestKeepsPorts p (reqUnshelveAlert p tag source code) := requestKeepsPorts_of_kept fun s => by
  unfold runUnshelveAlert
  simp only
  split_ifs
  · exact .refl s
  · exact ((handsOnly_unshelve _ _).keepsPorts_listEvent s).laws

theorem requestKeepsPorts_reqListAlerts (p : PortId) (tag start : Byte) :
    RequestKeepsPorts p (reqListAlerts p tag start) := requestKeepsPorts_of_kept fun s => .refl s

/-! ### The banner's, the sounder's, the overlays' and the time's -/

theorem requestKeepsPorts_reqSetBanner (p : PortId) (tag height : Byte) :
    RequestKeepsPorts p (reqSetBanner p tag height) := requestKeepsPorts_of_kept fun s => by
  unfold runSetBanner
  simp only
  split_ifs
  · exact .refl s
  · have hset : s.PortsKept { s with bandHeight := height.toNat } := .of_ports rfl rfl rfl
    exact ((keepsPorts_composed _ _).after hset).laws

theorem keepsPorts_setTone (entry : ToneId) (t : ToneEntry) : KeepsPorts (State.setTone entry t) := fun s => by
  unfold State.setTone
  simp only
  split
  · exact .of_ports rfl rfl rfl
  · split_ifs
    · exact .of_ports rfl rfl rfl
    · exact .of_ports rfl rfl rfl

theorem requestKeepsPorts_reqSetTone (p : PortId) (tag entry primary present secondary mix amplitude onTicks offTicks
    repeats : Byte) : RequestKeepsPorts p (reqSetTone p tag entry primary present secondary mix amplitude onTicks
      offTicks repeats) := requestKeepsPorts_of_kept fun s => (keepsPorts_setTone _ _ s).laws

theorem requestKeepsPorts_reqChime (p : PortId) (tag tone : Byte) : RequestKeepsPorts p (reqChime p tag tone) :=
  requestKeepsPorts_of_kept fun s => by
    unfold runChime
    split_ifs
    · exact .refl s
    · exact .refl s
    · exact State.PortsKept.laws (.of_ports rfl rfl rfl)

theorem requestKeepsPorts_reqPanelTest (p : PortId) (tag setting : Byte) :
    RequestKeepsPorts p (reqPanelTest p tag setting) :=
  requestKeepsPorts_of_kept fun s => (keepsPorts_setRemoteTest _ s).laws

theorem requestKeepsPorts_reqBlank (p : PortId) (tag setting : Byte) : RequestKeepsPorts p (reqBlank p tag setting) :=
  requestKeepsPorts_of_kept fun s => (keepsPorts_setBlank _ s).laws

theorem keepsPorts_setTime (seconds : BitVec 32) : KeepsPorts (State.setTime seconds) := fun s => by
  unfold State.setTime
  simp only
  split_ifs
  · exact handsOnly_unshelveExpired.keepsPorts_listEvent.after (.of_ports rfl rfl rfl)
  · exact handsOnly_unshelveExpired.keepsPorts_listEvent.after ((keepsPorts_composed _ _).after (.of_ports rfl rfl rfl))

theorem requestKeepsPorts_reqSetTime (p : PortId) (tag : Byte) (seconds : BitVec 32) :
    RequestKeepsPorts p (reqSetTime p tag seconds) := requestKeepsPorts_admission fun _ _ hs hp _ =>
  runKeepsPorts_afterDue keepsPortLaws_settle hs hp fun _ ht hidle => (keepsPorts_setTime seconds _).laws.run ht hidle

end Sys2Proof.Machine
end

section
/-!
PROOF. Frames, the receive buffer, transmissions, power-on reset and every row keep the laws of the Port Units. O58 is
the last theorem.
-/

namespace Sys2Proof.Machine

/-! ### What a request frame carries (R173, R174, R178) -/

/-- A request frame's body has a length and a kind that R174 allows. -/
theorem receive_request {line : List Bool} {body : List Byte} (h : receive line = .request body) :
    (3 ≤ body.length ∧ body.length ≤ 112) ∧ body.head? = some 1 := by
  unfold receive at h
  split at h
  · cases h
  · split_ifs at h
    unfold judgeContent at h
    simp only at h
    split_ifs at h with h8 h16 hcheck hlength hkind
    obtain rfl := Received.request.inj h
    exact ⟨by omega, hkind⟩
  · split_ifs at h

/-- A body that is not a STATUS request has another code (R178, R205). -/
theorem code_of_not_status {body : List Byte} (h : statusRequest body = none) :
    body[2]? ≠ some RequestCode.status.byte := by
  unfold statusRequest at h
  split at h
  · split_ifs at h with hcode
    simpa using hcode
  · next hshort =>
    match body with
    | [] => simp
    | [_] => simp
    | [_, _] => simp
    | a :: b :: c :: l => exact absurd rfl (hshort a b c l)

theorem requestLike_of_received {line : List Bool} {body : List Byte} (h : receive line = .request body)
    (hstatus : statusRequest body = none) : requestLike body = true := by
  obtain ⟨hlength, hkind⟩ := receive_request h
  rw [requestLike, Bool.and_eq_true, Bool.and_eq_true, decide_eq_true_eq, decide_eq_true_eq, beq_iff_eq]
  exact ⟨⟨hlength, hkind⟩, code_of_not_status hstatus⟩

/-! ### Frames, the receive buffer and transmissions (R174, R180, R192) -/

theorem requestKeepsPorts_carry (p : PortId) (tag : Byte) (rc : RequestCode) (ops : List Byte) :
    RequestKeepsPorts p (carry p tag rc ops) := by
  unfold carry
  split
  case h_3 => exact fun s hs _ => (keepsPorts_statusArrives p tag ops s).laws.laws hs
  all_goals
    split
    case h_2 => exact requestKeepsPorts_badLength p tag _
  · exact requestKeepsPorts_reqAttach _ _ _ _ _
  · exact requestKeepsPorts_reqDetach _ _
  · exact requestKeepsPorts_reqResetPort _ _
  · exact requestKeepsPorts_reqSetFilter _ _ _ _ _ _ _ _ _
  · exact requestKeepsPorts_reqSetNotices _ _ _
  · exact requestKeepsPorts_reqWaitSettled _ _ _ _
  · exact requestKeepsPorts_reqOpenWindow _ _ _ _ _ _ _
  · exact requestKeepsPorts_reqCloseWindow _ _ _
  · exact requestKeepsPorts_reqMoveWindow _ _ _ _ _ _
  · exact requestKeepsPorts_reqSetWindow _ _ _ _ _ _
  · exact requestKeepsPorts_reqWriteCells _ _ _ _ _ _
  · exact requestKeepsPorts_reqFillCells _ _ _ _ _ _ _ _ _
  · exact requestKeepsPorts_reqReadCells _ _ _ _ _ _
  · exact requestKeepsPorts_reqFlush _ _ _
  · exact requestKeepsPorts_reqFullRefresh _ _ _ _
  · exact requestKeepsPorts_reqSetRefreshPeriod _ _ _
  · exact requestKeepsPorts_reqSetHold _ _ _
  · exact requestKeepsPorts_reqClearDriveFault _ _
  · exact requestKeepsPorts_reqRaiseAlert _ _ _ _ _ _ _ _ _
  · exact requestKeepsPorts_reqClearAlert _ _ _
  · exact requestKeepsPorts_reqAckAlert _ _ _ _
  · exact requestKeepsPorts_reqShelveAlert _ _ _ _ _
  · exact requestKeepsPorts_reqUnshelveAlert _ _ _ _
  · exact requestKeepsPorts_reqListAlerts _ _ _
  · exact requestKeepsPorts_reqSetBanner _ _ _
  · exact requestKeepsPorts_reqSetTone _ _ _ _ _ _ _ _ _ _ _
  · exact requestKeepsPorts_reqChime _ _ _
  · exact requestKeepsPorts_reqPanelTest _ _ _
  · exact requestKeepsPorts_reqBlank _ _ _
  · exact requestKeepsPorts_reqSetTime _ _ _

theorem requestKeepsPorts_carryBody (p : PortId) (body : List Byte) : RequestKeepsPorts p (carryBody p body) := by
  unfold carryBody
  split
  · split
    · exact requestKeepsPorts_carry _ _ _ _
    · exact fun s hs hp => hs.answer hp _ _ _ _
  · exact fun s hs _ => hs

theorem State.PortLaws.takeRequest {s : State} (hs : s.PortLaws) (p : PortId) : (s.takeRequest p).PortLaws := by
  unfold State.takeRequest
  split
  · exact hs
  · next body rest hrx =>
    split_ifs with htake
    · have hrest := (s.portsKept_modifyPort (p := p) (f := fun u => { u with rx := rest }) (PortUnit.kept_rest hrx)).laws
      exact requestKeepsPorts_carryBody p body _ (hrest.laws hs) (hrest.idle p (PortUnit.canTake_idle htake))
    · exact hs

theorem State.PortLaws.requestArrives {s : State} (hs : s.PortLaws) {line : List Bool} {body : List Byte}
    (hbody : receive line = .request body) (p : PortId) : (s.requestArrives p body).PortLaws := by
  unfold State.requestArrives
  split
  · exact (keepsPorts_statusArrives p _ _ s).laws.laws hs
  · next hstatus =>
    exact ((s.portsKept_modifyPort (PortUnit.kept_buffer (requestLike_of_received hbody hstatus) _)).laws.laws
      hs).takeRequest p

theorem keepsPortLaws_restartKeepalive (p : PortId) : KeepsPortLaws (State.restartKeepalive p) :=
  (keepsPortLaws_secondFirst p).comp (keepsPorts_modifyPort p fun u => u.kept_goodFrame).laws

theorem State.PortLaws.frame {s : State} (hs : s.PortLaws) (p : PortId) (line : List Bool) :
    (s.frame p (receive line)).PortLaws := by
  have hrx : KeepsPortLaws (State.modifyPort p PortUnit.setRxError) :=
    (keepsPorts_modifyPort p fun u => u.kept_flags _).laws
  have hgood := (keepsPortLaws_restartKeepalive p s).laws hs
  unfold State.frame
  split
  · exact hs
  · exact (hrx s).laws hs
  · exact (hrx _).laws hgood
  · next hbody => exact hgood.requestArrives hbody p

theorem keepsPortLaws_firstOf (p : PortId) (body : List Byte) : KeepsPortLaws (firstOf p body) := by
  unfold firstOf
  split
  · split
    · exact keepsPortLaws_secondFirst p
    · exact keepsPortLaws_secondFirst p
    · exact (keepsPortLaws_secondFirst p).comp keepsPortLaws_expiryFirst
    · exact keepsPortLaws_settle
    · exact .refl
  · exact .refl

theorem State.PortLaws.endTransmission {s : State} (hs : s.PortLaws) (p : PortId) :
    (s.endTransmission p).PortLaws := by
  have hbefore : (s.beforeEnd p).PortLaws := by
    unfold State.beforeEnd
    split
    · exact hs
    · split_ifs
      · exact (keepsPortLaws_firstOf p _ s).laws hs
      · exact hs
  exact (((keepsPorts_modifyPort p fun u => u.kept_endTx) _).laws.laws hbefore).takeRequest p

/-! ### Power-on reset (R176) -/

theorem State.powerOn_port (s : State) (p : PortId) : s.powerOn.ports[p] = s.ports[p].powerOn := by
  fin_cases p <;> rfl

theorem State.portLaws_powerOn (s : State) : s.powerOn.PortLaws where
  units p := s.powerOn_port p ▸ PortUnit.powerOn_ok _
  supervisor _ h := nomatch h
  waits p w hw := by
    rw [State.powerOn_port] at hw
    exact nomatch hw

/-! ### Every row, every step -/

/-- The laws at the end of an event. -/
def State.PortsOk (s : State) : Prop := s.PortLaws ∧ s.started

theorem State.PortLaws.finish {s : State} (hs : s.PortLaws) : s.finish.PortsOk :=
  ⟨(keepsPorts_finish s).laws.laws hs, s.started_finish⟩

theorem RequestKeepsPorts.takeDirect {p : PortId} {request : State → State} (hf : RequestKeepsPorts p request)
    {s : State} (hs : s.PortsOk) : ∃ t, takeDirect p request s = .next t ∧ t.PortsOk := by
  refine ⟨_, rfl, ?_⟩
  split_ifs with htake
  · exact (hf s hs.1 (PortUnit.canTake_idle htake)).finish
  · exact hs

/-- An event taken whole ends with the laws. -/
theorem KeepsPortLaws.portsOk {f : State → State} (hf : KeepsPortLaws f) {s : State} (hs : s.PortsOk) :
    (s.whole f).PortsOk :=
  (((hf s).trans (keepsPorts_heardSince s _).laws).laws hs.1).finish

theorem State.PortsOk.due {s : State} (hs : s.PortsOk) (d : Due) : (s.whole d.act).PortsOk :=
  ⟨(keepsPortLaws_due d s).laws hs.1, State.started_finish _⟩

theorem State.PortsOk.transmissionStart {s : State} (hs : s.PortsOk) (p : PortId) :
    (s.modifyPort p PortUnit.startTx).PortsOk := by
  refine ⟨((keepsPorts_modifyPort p fun u => u.kept_startTx) s).laws.laws hs.1, fun q => ?_⟩
  rw [Fin.getElem_fin, State.modifyPort_port]
  split_ifs
  · exact PortUnit.startTx_started _
  · exact hs.2 q

theorem keepsPorts_tick (ack silence test : Bool) : KeepsPorts (State.tick ack silence test) := fun _ =>
  .of_ports rfl rfl rfl

/-- Every command leaves the laws of the ports. -/
theorem exec_portsOk (i : Instr) {s : State} (hs : s.PortsOk) : ∃ t, exec i s = .next t ∧ t.PortsOk := by
  cases i with
  | powerOnReset => exact ⟨_, rfl, ((keepsPorts_driveReact _).laws.laws s.portLaws_powerOn).finish⟩
  | frameReceived p line => exact ⟨_, rfl, (((keepsPortLaws_lossFirst p s).laws hs.1).frame p line).finish⟩
  | takeRequest p => exact ⟨_, rfl, (hs.1.takeRequest p).finish⟩
  | transmissionStart p => exact ⟨_, rfl, hs.transmissionStart p⟩
  | transmissionEnd p => exact ⟨_, rfl, (hs.1.endTransmission p).finish⟩
  | attach => exact (requestKeepsPorts_reqAttach _ _ _ _ _).takeDirect hs
  | detach => exact (requestKeepsPorts_reqDetach _ _).takeDirect hs
  | status p tag extra => exact ⟨_, rfl, ((keepsPorts_statusArrives p tag extra s).laws.laws hs.1).finish⟩
  | resetPort => exact (requestKeepsPorts_reqResetPort _ _).takeDirect hs
  | setFilter => exact (requestKeepsPorts_reqSetFilter _ _ _ _ _ _ _ _ _).takeDirect hs
  | setNotices => exact (requestKeepsPorts_reqSetNotices _ _ _).takeDirect hs
  | waitSettled => exact (requestKeepsPorts_reqWaitSettled _ _ _ _).takeDirect hs
  | waitTimeout p => exact ⟨_, rfl, hs.due (.waitEnd p)⟩
  | portLoss p => exact ⟨_, rfl, hs.due (.loss p)⟩
  | openWindow => exact (requestKeepsPorts_reqOpenWindow _ _ _ _ _ _ _).takeDirect hs
  | closeWindow => exact (requestKeepsPorts_reqCloseWindow _ _ _).takeDirect hs
  | moveWindow => exact (requestKeepsPorts_reqMoveWindow _ _ _ _ _ _).takeDirect hs
  | setWindow => exact (requestKeepsPorts_reqSetWindow _ _ _ _ _ _).takeDirect hs
  | writeCells => exact (requestKeepsPorts_reqWriteCells _ _ _ _ _ _).takeDirect hs
  | fillCells => exact (requestKeepsPorts_reqFillCells _ _ _ _ _ _ _ _ _).takeDirect hs
  | readCells => exact (requestKeepsPorts_reqReadCells _ _ _ _ _ _).takeDirect hs
  | flush => exact (requestKeepsPorts_reqFlush _ _ _).takeDirect hs
  | jobStart => exact ⟨_, rfl, ((keepsPorts_jobStart s).laws.laws hs.1).finish⟩
  | jobCompletion e => exact ⟨_, rfl, hs.due (.completion e)⟩
  | fullRefreshExpiry => exact ⟨_, rfl, hs.due .refresh⟩
  | fullRefresh => exact (requestKeepsPorts_reqFullRefresh _ _ _ _).takeDirect hs
  | setRefreshPeriod => exact (requestKeepsPorts_reqSetRefreshPeriod _ _ _).takeDirect hs
  | powerGoodAsserted => exact ⟨_, rfl, keepsPorts_assertPowerGood.laws.portsOk hs⟩
  | powerGoodLost => exact ⟨_, rfl, keepsPorts_losePowerGood.laws.portsOk hs⟩
  | riseTimerExpiry => exact ⟨_, rfl, hs.due .rise⟩
  | holdTimerExpiry => exact ⟨_, rfl, hs.due .hold⟩
  | fallTimerExpiry => exact ⟨_, rfl, hs.due .fall⟩
  | retryTimerExpiry => exact ⟨_, rfl, hs.due .retry⟩
  | setHold => exact (requestKeepsPorts_reqSetHold _ _ _).takeDirect hs
  | clearDriveFault => exact (requestKeepsPorts_reqClearDriveFault _ _).takeDirect hs
  | raiseAlert => exact (requestKeepsPorts_reqRaiseAlert _ _ _ _ _ _ _ _ _).takeDirect hs
  | clearAlert => exact (requestKeepsPorts_reqClearAlert _ _ _).takeDirect hs
  | ackAlert => exact (requestKeepsPorts_reqAckAlert _ _ _ _).takeDirect hs
  | shelveAlert => exact (requestKeepsPorts_reqShelveAlert _ _ _ _ _).takeDirect hs
  | unshelveAlert => exact (requestKeepsPorts_reqUnshelveAlert _ _ _ _).takeDirect hs
  | shelvingExpiry => exact ⟨_, rfl, hs.due .shelving⟩
  | listAlerts => exact (requestKeepsPorts_reqListAlerts _ _ _).takeDirect hs
  | setBanner => exact (requestKeepsPorts_reqSetBanner _ _ _).takeDirect hs
  | periodEnd => exact ⟨_, rfl, hs.due .period⟩
  | setTone => exact (requestKeepsPorts_reqSetTone _ _ _ _ _ _ _ _ _ _ _).takeDirect hs
  | chime => exact (requestKeepsPorts_reqChime _ _ _).takeDirect hs
  | ackPress => exact ⟨_, rfl, hs.due .ackPress⟩
  | ackHold => exact ⟨_, rfl, hs.due .ackHold⟩
  | ackRelease => exact ⟨_, rfl, hs.due .ackRelease⟩
  | silencePress => exact ⟨_, rfl, hs.due .silencePress⟩
  | silenceRelease => exact ⟨_, rfl, hs.due .silenceRelease⟩
  | testPress => exact ⟨_, rfl, hs.due .testPress⟩
  | testRelease => exact ⟨_, rfl, hs.due .testRelease⟩
  | panelTest => exact (requestKeepsPorts_reqPanelTest _ _ _).takeDirect hs
  | blank => exact (requestKeepsPorts_reqBlank _ _ _).takeDirect hs
  | tickEvent ack silence test =>
    exact ⟨_, rfl, (((keepsPortLaws_settle s).trans (keepsPorts_tick ack silence test _).laws).laws hs.1).finish⟩
  | secondEvent => exact ⟨_, rfl, hs.due .second⟩
  | blinkEvent => exact ⟨_, rfl, hs.due .blink⟩
  | setTime => exact (requestKeepsPorts_reqSetTime _ _ _).takeDirect hs

theorem step_portsOk {s t : State} (hst : step s = .next t) (hs : s.PortsOk) : t.PortsOk := by
  unfold step at hst
  split at hst
  · exact Host.Outcome.next.inj hst ▸ hs
  · next i rest _ =>
    have hrest : State.PortsOk { s with pending := rest } :=
      ⟨(State.PortsKept.of_ports rfl rfl rfl : s.PortsKept { s with pending := rest }).laws.laws hs.1, hs.2⟩
    obtain ⟨u, hu, hlaws⟩ := exec_portsOk i hrest
    exact Host.Outcome.next.inj (hst.symm.trans hu) ▸ hlaws

/-- Settles O58: the laws within an event (`State.PortLaws`) go through every operation, and the transmissions that
begin at its end bring the rest; a request is taken, and answered, at a port that neither waits nor has an execution
response queued. -/
theorem everyStepKeepsThePortUnits : Obligations.EveryStepKeepsThePortUnits := by
  unfold Obligations.EveryStepKeepsThePortUnits
  intro s t hst hports hsup hwaits
  exact t.portLaws_iff.mpr (step_portsOk hst (s.portLaws_iff.mp ⟨hports, hsup, hwaits⟩))

end Sys2Proof.Machine
end

section
/-!
PROOF. What a Port Unit does with a notice (O19, O20), and the STATUS report (O15).
-/

namespace Sys2Proof.Machine

/-! ### Which notices a port receives (R196, R198) -/

theorem tagMatches_iff (tag value mask : Byte) : tagMatches tag value mask = true ↔
    ∀ b < 8, mask.getLsbD b = true → tag.getLsbD b = value.getLsbD b := by
  unfold tagMatches
  rw [beq_iff_eq, BitVec.eq_of_getLsbD_eq_iff]
  refine forall₂_congr fun b _ => ?_
  rw [BitVec.getLsbD_and, BitVec.getLsbD_and]
  cases mask.getLsbD b <;> simp

/-- An enabled filter matches by its mode (R196). -/
theorem Filter.hits_iff (f : Filter) (area cls : Byte) : f.hits area cls = true ↔ f.enabled = true ∧
    match f.mode with
    | .area => ∀ b < 8, f.areaMask.getLsbD b = true → area.getLsbD b = f.areaValue.getLsbD b
    | .cls => ∀ b < 8, f.clsMask.getLsbD b = true → cls.getLsbD b = f.clsValue.getLsbD b
    | .both => (∀ b < 8, f.areaMask.getLsbD b = true → area.getLsbD b = f.areaValue.getLsbD b) ∧
        ∀ b < 8, f.clsMask.getLsbD b = true → cls.getLsbD b = f.clsValue.getLsbD b := by
  unfold Filter.hits
  rw [Bool.and_eq_true]
  refine and_congr_right fun _ => ?_
  cases f.mode with
  | area => exact tagMatches_iff _ _ _
  | cls => exact tagMatches_iff _ _ _
  | both => simp only [Bool.and_eq_true, tagMatches_iff]

/-- Settles O19: R198's three conditions, a filter's match bit by bit (`Filter.hits_iff`). -/
theorem noticesReceived : Obligations.NoticesReceived := by
  unfold Obligations.NoticesReceived
  intro p n u
  have hany : (u.filters.toList.any fun f => f.hits n.area n.cls) = true ↔
      ∃ k : Fin 4, u.filters[k].hits n.area n.cls = true := vector_any_iff _ _
  have hall : (u.filters.toList.all fun f => !f.enabled) = true ↔ ∀ k : Fin 4, u.filters[k].enabled = false := by
    rw [vector_all_iff]
    simp only [Bool.not_eq_true']
  unfold PortUnit.receives
  rw [Bool.and_eq_true, Bool.or_eq_true, Bool.or_eq_true, decide_eq_true_eq, decide_eq_true_eq, hany, hall, or_assoc]
  exact and_congr_right fun _ => or_congr_right (or_congr_left (exists_congr fun k => Filter.hits_iff _ _ _))

/-- Settles O20: the four lines of R199 (`PortUnit.takeNotice_cases`), at each of the four units. -/
theorem noticesTaken : Obligations.NoticesTaken := by
  unfold Obligations.NoticesTaken
  refine ⟨fun p n u => ?_, fun n s q => s.deliver_port q n⟩
  have hcases := u.takeNotice_cases p n
  refine ⟨fun hr => ?_, fun hr he hl => ?_, fun hr he hl => ?_, fun hr he => ?_⟩
  · simpa [hr] using hcases
  · simpa [hr, he, hl] using hcases
  · simpa [hr, he, Nat.not_lt.mpr hl] using hcases
  · simpa [hr, he] using hcases

/-! ### The report (R194, R207) -/

theorem byteOf_div_eq_extract {n : Nat} (w : BitVec n) (k : Nat) : byteOf (w.toNat / 2 ^ k) = w.extractLsb' k 8 := by
  apply BitVec.eq_of_toNat_eq
  simp [byteOf, BitVec.extractLsb', Nat.shiftRight_eq_div_pow]

theorem bytesOf32_eq (w : BitVec 32) : bytesOf32 w =
    [w.extractLsb' 0 8, w.extractLsb' 8 8, w.extractLsb' 16 8, w.extractLsb' 24 8] := by
  rw [← byteOf_div_eq_extract, ← byteOf_div_eq_extract, ← byteOf_div_eq_extract, ← byteOf_div_eq_extract]
  simp [bytesOf32]

theorem PortState.byte_eq (x : PortState) : x.byte = match x with
    | .detached => 0
    | .attached => 1
    | .lost => 2 := by
  cases x <;> rfl

theorem RailState.byte_eq (x : RailState) : x.byte = match x with
    | .off => 0
    | .rising _ => 1
    | .on _ => 2
    | .falling _ => 3
    | .fault _ => 4 := by
  cases x <;> rfl

/-- The report's bytes 4 to 21, one by one (R194, R207). -/
theorem State.report_eq (s : State) (p : PortId) : s.report p =
    [(match s.ports[p].state with
      | .detached => 0
      | .attached => 1
      | .lost => 2),
     if s.supervisor = some p then 1 else 0, if s.ports[p].wait.isSome then 1 else 0,
     byteOf ((if s.ports[p].flags.rxError then 1 else 0) + (if s.ports[p].flags.overrun then 2 else 0)
      + (if s.ports[p].flags.noticesLost then 4 else 0) + (if s.ports[p].flags.changesPending then 8 else 0)),
     (match s.supervisor with
      | some q => byteOf q.val
      | none => 255),
     byteOf (1024 - consumed s.windows), byteOf ((1024 - consumed s.windows) / 256),
     byteOf (s.alerts.countP fun a => decide (a.source = .port p)),
     byteOf (s.alerts.countP fun a => decide (a.source ≠ .system)), byteOf s.alerts.length,
     (match s.rail.state with
      | .off => 0
      | .rising _ => 1
      | .on _ => 2
      | .falling _ => 3
      | .fault _ => 4),
     byteOf s.rail.attempts,
     s.time.seconds.extractLsb' 0 8, s.time.seconds.extractLsb' 8 8,
     s.time.seconds.extractLsb' 16 8, s.time.seconds.extractLsb' 24 8, byteOf s.time.tick.val,
     byteOf (s.tiles.toList.countP TileRec.waiting)] := by
  have hrole : boolByte (s.isSupervisor p) = if s.supervisor = some p then 1 else 0 := by
    simp [boolByte, State.isSupervisor]
  have hwaits : boolByte (!s.ports[p].ready) = if s.ports[p].wait.isSome then 1 else 0 := by
    unfold PortUnit.ready
    cases s.ports[p].wait <;> rfl
  have hsup : optByte s.supervisor = match s.supervisor with
      | some q => byteOf q.val
      | none => 255 := by cases s.supervisor <;> rfl
  unfold State.report
  dsimp only
  rw [hrole, hwaits, hsup, PortState.byte_eq, RailState.byte_eq]
  unfold Stamp.bytes
  rw [bytesOf32_eq]
  simp only [bytesOf16, State.freeCells, portCount, State.waitingTiles, List.countP_eq_length_filter, PortFlags.byte,
    State.now, List.cons_append, List.nil_append]
  rfl

/-- Settles O15: STATUS in its three cases, with the report of `State.report_eq`. -/
theorem statusReports : Obligations.StatusReports := by
  unfold Obligations.StatusReports
  intro s p tag extra
  have hexec (more : List Byte) : exec (.status p tag more) s = .next (s.statusArrives p tag more).finish := rfl
  refine ⟨fun hfull => ?_, fun hroom hextra => ?_, fun hroom => ?_⟩
  · rw [hexec, State.statusArrives, if_pos hfull]
  · rw [hexec, State.statusArrives, if_neg (Nat.not_le.mpr hroom), if_neg (by simpa using hextra)]
    rfl
  · rw [hexec, State.statusArrives, if_neg (Nat.not_le.mpr hroom), if_pos List.isEmpty_nil, State.report_eq]
    rfl

end Sys2Proof.Machine
end

section
/-!
PROOF. Request bodies and admission (O8, O10, O11): a request row is the taking of its body, its admission reads the
length, the ranges and the role, and a body that no row has is refused.
-/

namespace Sys2Proof.Machine

/-! ### Codes (R205) -/

theorem RequestCode.ofByte_byte (rc : RequestCode) : RequestCode.ofByte rc.byte = some rc := by
  cases rc <;> rfl

theorem RequestCode.byte_injective {a b : RequestCode} (h : a.byte = b.byte) : a = b := by
  have hsame := congrArg RequestCode.ofByte h
  rw [RequestCode.ofByte_byte, RequestCode.ofByte_byte] at hsame
  exact Option.some.inj hsame

theorem RequestCode.ofByte_none {code : Byte} (h : ∀ rc, RequestCode.byte rc ≠ code) :
    RequestCode.ofByte code = none := by
  unfold RequestCode.ofByte
  exact List.find?_eq_none.mpr fun rc _ => by simpa using h rc

/-! ### A request row is the taking of its body (R180; log 9) -/

/-- A 16-bit operand is its two bytes, low byte first (R203). -/
theorem bytesOf16_eq (m : BitVec 16) : bytesOf16 m.toNat = [m.extractLsb' 0 8, m.extractLsb' 8 8] := by
  have hlow : byteOf m.toNat = m.extractLsb' 0 8 := by
    simpa using byteOf_div_eq_extract m 0
  have hhigh : byteOf (m.toNat / 256) = m.extractLsb' 8 8 := byteOf_div_eq_extract m 8
  rw [bytesOf16, hlow, hhigh]

theorem word16_bytes (m : BitVec 16) : word16 (byteOf m.toNat) (byteOf (m.toNat / 256)) = m := by
  have hbytes := bytesOf16_eq m
  simp only [bytesOf16, List.cons.injEq] at hbytes
  obtain ⟨hlow, hhigh, _⟩ := hbytes
  rw [hlow, hhigh, word16]
  apply BitVec.eq_of_getLsbD_eq
  intro i hi
  simp only [BitVec.getLsbD_append, BitVec.getLsbD_extractLsb']
  interval_cases i <;> simp

theorem word32_bytes (n : BitVec 32) : word32 (byteOf n.toNat) (byteOf (n.toNat / 256)) (byteOf (n.toNat / 65536))
    (byteOf (n.toNat / 16777216)) = n := by
  have hbytes := bytesOf32_eq n
  simp only [bytesOf32, List.cons.injEq] at hbytes
  obtain ⟨h0, h1, h2, h3, _⟩ := hbytes
  rw [h0, h1, h2, h3, word32]
  apply BitVec.eq_of_getLsbD_eq
  intro i hi
  simp only [BitVec.getLsbD_append, BitVec.getLsbD_extractLsb']
  interval_cases i <;> simp

theorem exec_of_takeDirect {p : PortId} {request : State → State} {s : State} (htake : s.ports[p].canTake = true) :
    takeDirect p request s = .next (request s).finish := congrArg Host.Outcome.next (if_pos htake)

/-- At a port that can take it, a request row is what its body brings when it is taken. -/
theorem exec_of_requestBody {i : Instr} {p : PortId} {body : List Byte} (h : requestBody i = some (p, body))
    {s : State} (htake : s.ports[p].canTake = true) : exec i s = .next (carryBody p body s).finish := by
  cases i
  case shelveAlert q tag source code seconds =>
    obtain ⟨rfl, rfl⟩ := Prod.mk.inj (Option.some.inj h)
    refine (exec_of_takeDirect htake).trans ?_
    conv_lhs => rw [← word16_bytes seconds]
    rfl
  case setTime q tag seconds =>
    obtain ⟨rfl, rfl⟩ := Prod.mk.inj (Option.some.inj h)
    refine (exec_of_takeDirect htake).trans ?_
    conv_lhs => rw [← word32_bytes seconds]
    rfl
  case status =>
    obtain ⟨rfl, rfl⟩ := Prod.mk.inj (Option.some.inj h)
    rfl
  all_goals
    first
    | exact nomatch (show none = some (p, body) from h)
    | obtain ⟨rfl, rfl⟩ := Prod.mk.inj (Option.some.inj h)
      exact exec_of_takeDirect htake

/-! ### The taking of a buffered request (R180) -/

theorem State.modifyPort_canTake {s : State} {p : PortId} {f : PortUnit → PortUnit}
    (h : (f s.ports[p]).canTake = s.ports[p].canTake) : (s.modifyPort p f).ports[p].canTake = s.ports[p].canTake := by
  rw [← h, Fin.getElem_fin, State.modifyPort_port_self]
  rfl

/-- The state whose port has the request `body` taken from its buffer. -/
theorem State.takeRequest_cons {s : State} {p : PortId} {body : List Byte} {rest : List (List Byte)}
    (hrx : s.ports[p].rx = body :: rest) (htake : s.ports[p].canTake = true) :
    exec (.takeRequest p) s =
      .next (carryBody p body (s.modifyPort p fun u => { u with rx := rest })).finish := by
  have htaken : s.takeRequest p = carryBody p body (s.modifyPort p fun u => { u with rx := rest }) := by
    unfold State.takeRequest
    rw [hrx]
    exact if_pos htake
  exact congrArg (fun t : State => Host.Outcome.next t.finish) htaken

/-- Settles O8: both the row and the taking are what the body brings at a port that can take it (R180; log 9). -/
theorem takenRequestIsItsRow : Obligations.TakenRequestIsItsRow := by
  unfold Obligations.TakenRequestIsItsRow
  refine ⟨fun i s p body rest hbody hrx htake => ?_, fun p tag a b c d e f g h k l m n => ?_⟩
  · have hstill : (s.modifyPort p fun u => { u with rx := rest }).ports[p].canTake = true := by
      rw [State.modifyPort_canTake (by rfl), htake]
    exact ⟨_, State.takeRequest_cons hrx htake, exec_of_requestBody hbody hstill⟩
  · simp only [requestBody, bodyOf, RequestCode.byte, bytesOf16_eq, bytesOf32_eq, List.cons_append, List.nil_append]
    trivial

end Sys2Proof.Machine
end

section
/-!
PROOF. Admission (O10, O11): every request row reads its length, its ranges and its role in the one order of R181, and
a body that no row has is refused.
-/

namespace Sys2Proof.Machine

/-! ### A request row by its admission (R181) -/

/-- Each request row but STATUS is taken through admission under its own code, with the checks `lengthAllowed`,
`Instr.wellFormed` and `supervisorOnly` speak of. -/
theorem exec_admission {i : Instr} {p : PortId} {tag code : Byte} {ops : List Byte}
    (h : requestBody i = some (p, 1 :: tag :: code :: ops)) (hcode : code ≠ RequestCode.status.byte) :
    ∃ rc inRange run, RequestCode.byte rc = code ∧ i.wellFormed = (lengthAllowed i && inRange) ∧ ∀ s, exec i s =
      takeDirect p (admission p tag rc (lengthAllowed i) inRange (supervisorOnly i) run) s := by
  cases i
  case status =>
    simp only [requestBody, bodyOf, Option.some.injEq, Prod.mk.injEq, List.cons.injEq, true_and] at h
    exact absurd h.2.2.1.symm hcode
  all_goals
    simp only [requestBody, bodyOf, reduceCtorEq, Option.some.injEq, Prod.mk.injEq, List.cons.injEq, true_and] at h
  all_goals
    obtain ⟨rfl, rfl, rfl, rfl⟩ := h
    refine ⟨_, _, _, rfl, ?_, fun _ => rfl⟩
    rfl

section
variable {s : State} {p : PortId} {tag : Byte} {rc : RequestCode} {lengthOk inRange sup : Bool}
  {run : State → State × Reply}

theorem admission_of_not_attached (hrc : rc ≠ .attach) (hstate : s.ports[p].state ≠ .attached) :
    admission p tag rc lengthOk inRange sup run s = s.refuse p tag rc.byte .notAttached := if_pos ⟨hrc, hstate⟩

theorem admission_of_served (h : rc = .attach ∨ s.ports[p].state = .attached) :
    admission p tag rc lengthOk inRange sup run s =
      if !lengthOk then s.refuse p tag rc.byte .badLength
      else if !inRange then s.refuse p tag rc.byte .badValue
      else if sup && !s.isSupervisor p then s.refuse p tag rc.byte .notPermitted
      else (s.heardSince (run s).1).reply p tag rc (run s).2 :=
  if_neg fun hfail => h.elim hfail.1 hfail.2

theorem admission_badLength (h : rc = .attach ∨ s.ports[p].state = .attached) (hlength : lengthOk = false) :
    admission p tag rc lengthOk inRange sup run s = s.refuse p tag rc.byte .badLength := by
  rw [admission_of_served h, hlength]
  rfl

theorem admission_badValue (h : rc = .attach ∨ s.ports[p].state = .attached) (hlength : lengthOk = true)
    (hrange : inRange = false) : admission p tag rc lengthOk inRange sup run s = s.refuse p tag rc.byte .badValue := by
  rw [admission_of_served h, hlength, hrange]
  rfl

theorem admission_notPermitted (h : rc = .attach ∨ s.ports[p].state = .attached) (hlength : lengthOk = true)
    (hrange : inRange = true) (hsup : sup = true) (hrole : s.supervisor ≠ some p) :
    admission p tag rc lengthOk inRange sup run s = s.refuse p tag rc.byte .notPermitted := by
  have hnot : s.isSupervisor p = false := decide_eq_false hrole
  rw [admission_of_served h, hlength, hrange, hsup, hnot]
  rfl

end

/-- Another port holds the role (R183): nothing changes but the response. -/
theorem reqAttach_roleTaken {s : State} {p q : PortId} {tag keepalive lossAction : Byte}
    (hok : attachOk 1 keepalive lossAction = true) (hrole : s.supervisor = some q) (hother : q ≠ p) :
    reqAttach p tag 1 keepalive lossAction s = s.refuse p tag RequestCode.attach.byte .roleTaken := by
  have hrun : runAttach p 1 keepalive lossAction s = (s, some (.roleTaken, [])) := by
    refine if_pos ⟨rfl, ?_, ?_⟩
    · simp [hrole]
    · simpa [hrole] using hother
  unfold reqAttach
  rw [admission_of_served (.inl rfl), hok, hrun]
  exact congrArg (fun t : State => t.reply p tag .attach (some (.roleTaken, []))) (State.heardSince_self s)

/-! ### The ranges of R206 -/

theorem attributesOk_iff : ∀ l : List Byte, attributesOk l = true ↔
    ∀ (i : Nat) (v : Byte), l[2 * i + 1]? = some v → v.toNat ≤ 3
  | [] => by simp [attributesOk]
  | [_] => by simp [attributesOk]
  | glyph :: attr :: rest => by
    have hrest := attributesOk_iff rest
    have hcons : attributesOk (glyph :: attr :: rest) = true ↔ attr.toNat ≤ 3 ∧ attributesOk rest = true := by
      simp [attributesOk, upTo]
    rw [hcons, hrest]
    constructor
    · rintro ⟨hattr, hall⟩ (_ | i) v hv
      · rwa [← Option.some.inj hv]
      · exact hall i v hv
    · intro hall
      exact ⟨hall 0 attr rfl, fun i v hv => hall (i + 1) v hv⟩

theorem sourceCodeOk_iff (source code : Byte) : sourceCodeOk source code = true ↔
    source.toNat ≤ 4 ∧ (source = 4 → code.toNat ≤ 5) := by
  simp [sourceCodeOk, upTo, Decidable.imp_iff_not_or]

theorem cellsLengthOk_iff (l : List Byte) : cellsLengthOk l = true ↔
    2 ≤ l.length ∧ l.length ≤ 80 ∧ l.length % 2 = 0 := by
  simp [cellsLengthOk]

theorem setToneOk_iff (entry present mix amplitude onTicks : Byte) :
    setToneOk entry present mix amplitude onTicks = true ↔ entry.toNat ≤ 7 ∧ present.toNat ≤ 1 ∧ mix.toNat ≤ 1 ∧
      amplitude.toNat ≤ 15 ∧ 1 ≤ onTicks.toNat := by
  have hbyte : onTicks.toNat ≤ 255 := Nat.le_of_lt_succ onTicks.isLt
  simp [setToneOk, upTo, within, hbyte, and_assoc]

/-- Settles O10, by `exec_admission` and the equations of `admission` for each check that fails. -/
theorem admissionRefusals : Obligations.AdmissionRefusals := by
  unfold Obligations.AdmissionRefusals
  refine ⟨fun i s p tag code ops hbody htake hcode => ?_, fun s p q tag keepalive lossAction htake hok hrole hother => ?_,
    fun p tag a b c d e f g h k l m n => ?_⟩
  · obtain ⟨rc, inRange, run, rfl, hwell, hexec⟩ := exec_admission hbody hcode
    rw [hexec, exec_of_takeDirect htake, hwell]
    refine ⟨fun hnot hstate => ?_, fun hserved => ⟨fun hlength => ?_, fun hlength hbad => ?_, fun hgood hsup hrole => ?_⟩⟩
    · rw [admission_of_not_attached (fun hrc => hnot (congrArg _ hrc)) hstate]
    · rw [admission_badLength (hserved.imp_left RequestCode.byte_injective) hlength]
    · rw [hlength, Bool.true_and] at hbad
      rw [admission_badValue (hserved.imp_left RequestCode.byte_injective) hlength hbad]
    · obtain ⟨hlength, hrange⟩ := Bool.and_eq_true_iff.mp hgood
      rw [admission_notPermitted (hserved.imp_left RequestCode.byte_injective) hlength hrange hsup hrole]
  · rw [← reqAttach_roleTaken hok hrole hother]
    exact exec_of_takeDirect htake
  · simp only [lengthAllowed, Instr.wellFormed, cellsLengthOk_iff, sourceCodeOk_iff, setToneOk_iff, messageLengthOk,
      attachOk, setFilterOk, waitSettledOk, openWindowOk, moveWindowOk, setWindowOk, writeCellsOk, attributesOk_iff,
      fillCellsOk, readCellsOk, fullRefreshOk, raiseAlertOk, shelveAlertOk, upToOrAbsent, upTo, within,
      Bool.and_eq_true, Bool.or_eq_true, decide_eq_true_eq, beq_iff_eq, List.isEmpty_iff, and_assoc]
    simp +contextual

end Sys2Proof.Machine
end

section
/-!
PROOF. Bodies that no row has (O11): the layouts of R205 are inverse to the bodies of the rows, so a body that is no
row's has another length.
-/

namespace Sys2Proof.Machine

theorem bytesOf16_word16 (b0 b1 : Byte) : bytesOf16 (word16 b0 b1).toNat = [b0, b1] := by
  simp only [bytesOf16_eq, word16, List.cons.injEq, and_true]
  refine ⟨?_, ?_⟩ <;> refine BitVec.eq_of_getLsbD_eq fun i hi => ?_
  all_goals
    simp only [BitVec.getLsbD_append, BitVec.getLsbD_extractLsb']
    interval_cases i <;> simp

theorem bytesOf32_word32 (b0 b1 b2 b3 : Byte) : bytesOf32 (word32 b0 b1 b2 b3) = [b0, b1, b2, b3] := by
  simp only [bytesOf32_eq, word32, List.cons.injEq, and_true]
  refine ⟨?_, ?_, ?_, ?_⟩ <;> refine BitVec.eq_of_getLsbD_eq fun i hi => ?_
  all_goals
    simp only [BitVec.getLsbD_append, BitVec.getLsbD_extractLsb']
    interval_cases i <;> simp

/-- Operands are those of a row, or their length is not the code's (R205). -/
theorem readable_or_badLength (p : PortId) (tag : Byte) {rc : RequestCode} (hrc : rc ≠ .status) (ops : List Byte) :
    (∃ i, requestBody i = some (p, bodyOf tag rc ops)) ∨ carry p tag rc ops = badLength p tag rc := by
  cases rc
  case status => exact absurd rfl hrc
  case shelveAlert =>
    simp only [carry]
    split
    · next source code b0 b1 =>
      exact .inl ⟨.shelveAlert p tag source code (word16 b0 b1), by simp [requestBody, bytesOf16_word16]⟩
    · exact .inr rfl
  case setTime =>
    simp only [carry]
    split
    · next b0 b1 b2 b3 =>
      exact .inl ⟨.setTime p tag (word32 b0 b1 b2 b3), by simp [requestBody, bytesOf32_word32]⟩
    · exact .inr rfl
  all_goals
    simp only [carry]
    split
  any_goals exact .inr rfl
  exacts [.inl ⟨.attach p tag _ _ _, rfl⟩, .inl ⟨.detach p tag, rfl⟩, .inl ⟨.resetPort p tag, rfl⟩,
    .inl ⟨.setFilter p tag _ _ _ _ _ _ _, rfl⟩, .inl ⟨.setNotices p tag _, rfl⟩, .inl ⟨.waitSettled p tag _ _, rfl⟩,
    .inl ⟨.openWindow p tag _ _ _ _ _, rfl⟩, .inl ⟨.closeWindow p tag _, rfl⟩, .inl ⟨.moveWindow p tag _ _ _ _, rfl⟩,
    .inl ⟨.setWindow p tag _ _ _ _, rfl⟩, .inl ⟨.writeCells p tag _ _ _ _, rfl⟩,
    .inl ⟨.fillCells p tag _ _ _ _ _ _ _, rfl⟩, .inl ⟨.readCells p tag _ _ _ _, rfl⟩, .inl ⟨.flush p tag _, rfl⟩,
    .inl ⟨.fullRefresh p tag _ _, rfl⟩, .inl ⟨.setRefreshPeriod p tag _, rfl⟩, .inl ⟨.setHold p tag _, rfl⟩,
    .inl ⟨.clearDriveFault p tag, rfl⟩, .inl ⟨.raiseAlert p tag _ _ _ _ _ _ _, rfl⟩, .inl ⟨.clearAlert p tag _, rfl⟩,
    .inl ⟨.ackAlert p tag _ _, rfl⟩, .inl ⟨.unshelveAlert p tag _ _, rfl⟩, .inl ⟨.listAlerts p tag _, rfl⟩,
    .inl ⟨.setBanner p tag _, rfl⟩, .inl ⟨.setTone p tag _ _ _ _ _ _ _ _ _, rfl⟩, .inl ⟨.chime p tag _, rfl⟩,
    .inl ⟨.panelTest p tag _, rfl⟩, .inl ⟨.blank p tag _, rfl⟩]

theorem carryBody_unknown {p : PortId} {tag code : Byte} {ops : List Byte} (h : ∀ rc, RequestCode.byte rc ≠ code) :
    carryBody p (1 :: tag :: code :: ops) = unknownRequest p tag code := by
  simp only [carryBody, RequestCode.ofByte_none h]

theorem carryBody_bodyOf (p : PortId) (tag : Byte) (rc : RequestCode) (ops : List Byte) :
    carryBody p (bodyOf tag rc ops) = carry p tag rc ops := by
  simp only [carryBody, bodyOf, RequestCode.ofByte_byte]

/-- A body of another length than its code's, by the checks 1 and 3 of R181. -/
theorem badLength_eq (p : PortId) (tag : Byte) (rc : RequestCode) (s : State) : badLength p tag rc s =
    s.refuse p tag rc.byte (if rc.byte = RequestCode.attach.byte ∨ s.ports[p].state = .attached then .badLength
      else .notAttached) := by
  by_cases hserved : rc = .attach ∨ s.ports[p].state = .attached
  · rw [if_pos (hserved.imp_left (congrArg _))]
    exact admission_badLength hserved rfl
  · rw [if_neg fun h => hserved (h.imp_left RequestCode.byte_injective)]
    exact admission_of_not_attached (fun h => hserved (.inl h)) fun h => hserved (.inr h)

/-- Settles O11, by `State.takeRequest_cons` and `readable_or_badLength`. -/
theorem unreadableBodiesAreRefused : Obligations.UnreadableBodiesAreRefused := by
  unfold Obligations.UnreadableBodiesAreRefused
  intro s p tag code ops rest hrx htake
  have hstate : (s.modifyPort p fun u => { u with rx := rest }).ports[p].state = s.ports[p].state := by
    rw [Fin.getElem_fin, State.modifyPort_port_self]
    rfl
  dsimp only
  rw [State.takeRequest_cons hrx htake]
  refine ⟨fun hunknown => ?_, ?_⟩
  · rw [carryBody_unknown hunknown, unknownRequest, hstate]
  · rintro ⟨rc, rfl⟩ hcode hbody
    have hbad := (readable_or_badLength p tag (fun h => hcode (congrArg _ h)) ops).resolve_left fun ⟨i, hi⟩ => hbody i hi
    have hcarry : carryBody p (1 :: tag :: rc.byte :: ops) = badLength p tag rc := (carryBody_bodyOf p tag rc ops).trans hbad
    rw [hcarry, badLength_eq, hstate]

end Sys2Proof.Machine
end

section
/-!
PROOF. The links' rows (O7, O9): a frame received at its port, and what leaves the queues.
-/

namespace Sys2Proof.Machine

/-! ### Changes at one port, one after another -/

theorem State.modifyPort_modifyPort (s : State) (p : PortId) (f g : PortUnit → PortUnit) :
    (s.modifyPort p f).modifyPort p g = s.modifyPort p fun u => g (f u) := by
  simp [State.modifyPort]

theorem State.modifyPort_congr {s : State} {p : PortId} {f g : PortUnit → PortUnit} (h : f s.ports[p] = g s.ports[p]) :
    s.modifyPort p f = s.modifyPort p g := by
  unfold State.modifyPort
  rw [h]

theorem State.modifyPort_of_same {s : State} {p : PortId} {f : PortUnit → PortUnit} (h : f s.ports[p] = s.ports[p]) :
    s.modifyPort p f = s := by
  unfold State.modifyPort
  rw [h, Fin.getElem_fin, Vector.set_getElem_self]

/-! ### FRAME_RECEIVED (R174, R178, R186) -/

/-- A loss that is not due stays so when the keepalive count restarts (R186). -/
theorem PortUnit.goodFrame_lossDue {u : PortUnit} (h : u.lossDue = false) : u.goodFrame.lossDue = false := by
  rw [← Bool.not_eq_true] at h ⊢
  refine fun hdue => h ?_
  simp only [PortUnit.lossDue, PortUnit.goodFrame, Bool.and_eq_true] at hdue ⊢
  cases hcount : u.keepaliveCount with
  | none => simp [hcount] at hdue
  | some c =>
    have hzero : u.keepalive = 0 := by simpa [hcount] using hdue.2
    exact ⟨hdue.1, decide_eq_true (hzero ▸ Nat.zero_le c)⟩

theorem PortUnit.goodFrame_canTake {u : PortUnit} (h : u.lossDue = false) : u.goodFrame.canTake = u.canTake := by
  unfold PortUnit.canTake
  rw [goodFrame_lossDue h, h]
  rfl

theorem PortUnit.buffer_canTake (body : List Byte) (u : PortUnit) : (u.buffer body).canTake = u.canTake := by
  unfold PortUnit.buffer
  split <;> rfl

theorem PortUnit.buffer_of_empty {u : PortUnit} (body : List Byte) (h : u.rx = []) :
    u.buffer body = { u with rx := [body] } := by
  simp [PortUnit.buffer, h]

theorem State.takeRequest_of_cannot {s : State} {p : PortId} (h : s.ports[p].rx = [] ∨ s.ports[p].canTake = false) :
    s.takeRequest p = s := by
  unfold State.takeRequest
  split
  · rfl
  · next hrx => exact if_neg (by simp_all)

section
variable {s : State} {p : PortId}

theorem State.restartKeepalive_of_not_due (hloss : s.ports[p].lossDue = false) (hsecond : s.time.secondDue = false) :
    s.restartKeepalive p = s.modifyPort p PortUnit.goodFrame := by
  unfold State.restartKeepalive
  rw [State.secondFirst_of_not_due hloss hsecond]

theorem exec_frameReceived_of_not_due (line : List Bool) (hloss : s.ports[p].lossDue = false) :
    exec (.frameReceived p line) s = .next (s.frame p (receive line)).finish := by
  refine congrArg (fun t : State => Host.Outcome.next (t.frame p (receive line)).finish) ?_
  exact State.lossFirst_of_not_due hloss

/-- A request that the port cannot take at its arrival stands in the buffer, or is gone (R178, R180). -/
theorem State.buffer_of_busy (body : List Byte) (hbusy : s.ports[p].canTake = false) :
    (s.modifyPort p (·.buffer body)).takeRequest p = s.modifyPort p (·.buffer body) := by
  refine State.takeRequest_of_cannot (.inr ?_)
  rw [State.modifyPort_canTake (PortUnit.buffer_canTake body _), hbusy]

/-- A request that finds an empty buffer at a port that can take one is taken as it arrives (R180). -/
theorem State.buffer_of_ready (body : List Byte) (hempty : s.ports[p].rx = []) (hready : s.ports[p].canTake = true) :
    (s.modifyPort p (·.buffer body)).takeRequest p = carryBody p body s := by
  have hunit : (s.modifyPort p (·.buffer body)).ports[p] = { s.ports[p] with rx := [body] } := by
    rw [Fin.getElem_fin, State.modifyPort_port_self]
    exact PortUnit.buffer_of_empty body hempty
  have hback : ((s.modifyPort p (·.buffer body)).modifyPort p fun u => { u with rx := [] }) = s := by
    rw [State.modifyPort_modifyPort]
    refine State.modifyPort_of_same ?_
    rw [PortUnit.buffer_of_empty body hempty, ← hempty]
  unfold State.takeRequest
  rw [hunit]
  exact (if_pos hready).trans (congrArg _ hback)

end

/-- Settles O7, by the outcome of `receive` and the place the buffer has. -/
theorem frameReceivedOutcomes : Obligations.FrameReceivedOutcomes := by
  unfold Obligations.FrameReceivedOutcomes
  intro s p line hloss hsecond
  have hexec := exec_frameReceived_of_not_due line hloss
  have hrestart := State.restartKeepalive_of_not_due hloss hsecond
  generalize receive line = r at hexec
  rcases r with _ | (_ | _) | body
  · exact hexec
  · exact hexec
  · rw [State.frame, hrestart, State.modifyPort_modifyPort] at hexec
    exact hexec
  · rw [State.frame, hrestart, State.requestArrives] at hexec
    have hunit : (s.modifyPort p PortUnit.goodFrame).ports[p] = s.ports[p].goodFrame := by
      rw [Fin.getElem_fin, State.modifyPort_port_self]
      rfl
    have hcan : (s.modifyPort p PortUnit.goodFrame).ports[p].canTake = s.ports[p].canTake :=
      State.modifyPort_canTake (PortUnit.goodFrame_canTake hloss)
    have hrx : (s.modifyPort p PortUnit.goodFrame).ports[p].rx = s.ports[p].rx := by
      rw [hunit]
      rfl
    dsimp only
    generalize s.modifyPort p PortUnit.goodFrame = t at hexec hcan hrx ⊢
    rw [← hcan, ← hrx]
    generalize statusRequest body = status at hexec
    rcases status with _ | ⟨tag, extra⟩
    · refine ⟨fun hfull hbusy => ?_, fun hroom hbusy => ?_, fun hempty hready => ?_⟩
      · rw [hexec, State.buffer_of_busy body hbusy]
        exact congrArg (fun t : State => Host.Outcome.next t.finish) (State.modifyPort_congr (if_neg (by omega)))
      · rw [hexec, State.buffer_of_busy body hbusy]
        exact congrArg (fun t : State => Host.Outcome.next t.finish) (State.modifyPort_congr (if_pos hroom))
      · rw [hexec, State.buffer_of_ready body hempty hready]
    · exact hexec

/-! ### TRANSMISSION_START and TRANSMISSION_END (R175, R192) -/

theorem PortUnit.startTx_eq (u : PortUnit) : u.startTx = { u with
    tx := if u.tx ≠ .free then u.tx else if u.responses ≠ [] then .response
      else if u.notices ≠ [] then .notice else .free } := by
  cases u
  unfold PortUnit.startTx
  split_ifs <;> simp_all

theorem PortUnit.endTx_eq (u : PortUnit) : u.endTx = { u with
    responses := if u.tx = .response then u.responses.tail else u.responses
    notices := if u.tx = .notice then u.notices.tail else u.notices
    tx := .free
    lineEnd := if u.tx = .free then u.lineEnd else .flag } := by
  cases u
  unfold PortUnit.endTx
  split <;> simp_all

theorem PortUnit.endTx_rx (u : PortUnit) : u.endTx.rx = u.rx := by rw [PortUnit.endTx_eq]

/-- With nothing left due, no request has an event of the last tick before it (log 8). -/
theorem State.firstOf_of_none {s : State} (p : PortId) (body : List Byte) (h : s.dueNow = []) :
    firstOf p body s = s := by
  have hsecond : s.secondFirst p = s :=
    State.secondFirst_of_not_due (State.not_isDue h (.loss p)) (State.not_isDue h .second)
  have hexpiry : s.expiryFirst = s := State.expiryFirst_of_not_due (State.not_isDue h .refresh)
  unfold firstOf
  split
  · generalize RequestCode.ofByte _ = code
    rcases code with _ | rc
    · rfl
    · cases rc
      case attach => exact hsecond
      case waitSettled => exact hsecond
      case setRefreshPeriod => exact (congrArg State.expiryFirst hsecond).trans hexpiry
      case setTime => exact State.settle_of_none h
      all_goals rfl
  · rfl

theorem State.beforeEnd_of_none {s : State} (p : PortId) (h : s.dueNow = []) : s.beforeEnd p = s := by
  unfold State.beforeEnd
  split
  · rfl
  · split
    · exact State.firstOf_of_none p _ h
    · rfl

theorem State.beforeEnd_of_cannot {s : State} {p : PortId} (h : s.ports[p].rx = [] ∨ s.ports[p].endTx.canTake = false) :
    s.beforeEnd p = s := by
  unfold State.beforeEnd
  split
  · rfl
  · next hrx => exact if_neg (by simp_all)

theorem sending_of_notice {u : PortUnit} {q : QueuedNotice} {qs : List QueuedNotice} (htx : u.tx = .notice)
    (hnotices : u.notices = q :: qs) : u.sendingBits = some (frameBits q.body) := by
  simp [PortUnit.sendingBits, PortUnit.sending, htx, hnotices]

theorem sending_of_response {u : PortUnit} {r : Response} {rs : List Response} (htx : u.tx = .response)
    (hresponses : u.responses = r :: rs) : u.sendingBits = some (frameBits r.body) := by
  simp [PortUnit.sendingBits, PortUnit.sending, htx, hresponses]

theorem frameBits_eq (body : List Byte) : frameBits body = flagBits ++ stuff 0 (contentOf body) ++ flagBits :=
  (List.append_assoc _ _ _).symm

theorem Stamp.bytes_eq (a : Stamp) : a.bytes = stampBytes a := by
  rw [Stamp.bytes, bytesOf32_eq]
  rfl

theorem boolByte_eq (b : Bool) : boolByte b = if b then 1 else 0 := rfl

theorem Source.byte_eq (x : Source) : x.byte = sourceNumber x := by cases x <;> rfl

theorem Severity.byte_eq (x : Severity) : x.byte = severityNumber x := by cases x <;> rfl

theorem AlertStage.byte_eq (x : AlertStage) : x.byte = stageNumber x := by cases x <;> rfl

theorem ackByte_eq (x : Option Acker) : ackByte x = ackerNumber x := by
  rcases x with _ | _ | _ <;> rfl

/-- Settles O9, by `PortUnit.startTx_eq` and `PortUnit.endTx_eq`. -/
theorem transmissionsFollowTheQueues : Obligations.TransmissionsFollowTheQueues := by
  unfold Obligations.TransmissionsFollowTheQueues
  intro s p
  refine ⟨?_, ?_, ?_, fun _ => rfl, by decide, ?_⟩
  · exact congrArg Host.Outcome.next (State.modifyPort_congr (PortUnit.startTx_eq _))
  · have hended : (s.modifyPort p fun u => { u with
        responses := if u.tx = .response then u.responses.tail else u.responses
        notices := if u.tx = .notice then u.notices.tail else u.notices
        tx := .free
        lineEnd := if u.tx = .free then u.lineEnd else .flag }) = s.modifyPort p PortUnit.endTx :=
      State.modifyPort_congr (PortUnit.endTx_eq _).symm
    have hunit : (s.modifyPort p PortUnit.endTx).ports[p] = s.ports[p].endTx := by
      rw [Fin.getElem_fin, State.modifyPort_port_self]
      rfl
    dsimp only
    rw [hended, hunit]
    refine ⟨fun hcannot => ?_, fun hnone => ?_⟩
    · have htake : (s.modifyPort p PortUnit.endTx).takeRequest p = s.modifyPort p PortUnit.endTx :=
        State.takeRequest_of_cannot (by rwa [hunit, PortUnit.endTx_rx])
      have hend : s.endTransmission p = s.modifyPort p PortUnit.endTx := by
        rw [State.endTransmission, State.beforeEnd_of_cannot hcannot, htake]
      exact ⟨congrArg (fun t : State => Host.Outcome.next t.finish) hend,
        congrArg (fun t : State => Host.Outcome.next t.finish) htake⟩
    · have hend : s.endTransmission p = (s.modifyPort p PortUnit.endTx).takeRequest p := by
        rw [State.endTransmission, State.beforeEnd_of_none p hnone]
      exact congrArg (fun t : State => Host.Outcome.next t.finish) hend
  · intro u r q rs qs
    refine ⟨fun htx => ?_, fun htx hresponses => ?_, fun htx hnotices => ?_⟩
    · simp [PortUnit.sendingBits, PortUnit.sending, htx]
    · rw [sending_of_response htx hresponses, frameBits_eq]
    · rw [sending_of_notice htx hnotices, frameBits_eq]
  · intro q
    rw [QueuedNotice.body, Stamp.bytes_eq, Source.byte_eq, Severity.byte_eq, AlertStage.byte_eq, ackByte_eq,
      boolByte_eq]
    cases hkind : q.notice.kind <;> rfl

end Sys2Proof.Machine
end

section
/-!
PROOF. The requests that set one value, and the waits (O16, O17): neither changes an input of the sounder, so the
answer stands on the changed state.
-/

namespace Sys2Proof.Machine

/-! ### Requests that set a value at their port (R197, R201, R84, R66) -/

/-- A request of port `p` that changes its own unit, and of which the sounder hears nothing. -/
theorem takeDirect_ownUnit {p : PortId} {s : State} (hs : s.serves p) (tag : Byte) (rc : RequestCode) {inRange : Bool}
    {run : State → State × Reply} {f : PortUnit → PortUnit} (hrange : inRange = true)
    (hrun : run s = (s.modifyPort p f, some (.ok, []))) :
    takeDirect p (admission p tag rc true inRange false run) s =
      .next (s.modifyPort p fun u => (f u).answer tag rc.byte .ok []).finish := by
  rw [takeDirect_unheard hs tag rc rfl hrange (fun h => absurd h Bool.false_ne_true) hrun rfl rfl rfl]
  exact congrArg (fun t : State => Host.Outcome.next t.finish) (State.modifyPort_modifyPort s p f _)

/-- OFF leaves a notice in transmission alone, and marks what it drops (R201). -/
theorem PortUnit.setNotices_off (u : PortUnit) : u.setNotices false = { u with
    noticesEnabled := false
    notices := if u.tx = .notice then u.notices.take 1 else []
    flags := { u.flags with
      changesPending := u.flags.changesPending || decide ((if u.tx = .notice then 1 else 0) < u.notices.length) } } := by
  have hlost : (if u.tx = .notice then u.notices.take 1 else []).length < u.notices.length ↔
      (if u.tx = .notice then 1 else 0) < u.notices.length := by
    split <;> simp
  have hcase : u.setNotices false = if (if u.tx = .notice then u.notices.take 1 else []).length < u.notices.length
      then { u.emptyNotices with noticesEnabled := false }.setChangesPending
      else { u.emptyNotices with noticesEnabled := false } := rfl
  rw [hcase]
  by_cases hless : (if u.tx = .notice then 1 else 0) < u.notices.length
  · rw [if_pos (hlost.mpr hless), decide_eq_true hless, Bool.or_true]
    rfl
  · rw [if_neg (fun h => hless (hlost.mp h)), decide_eq_false hless, Bool.or_false]
    rfl

theorem runSetRefreshPeriod_of_none_due {p : PortId} {s : State} (minutes : Byte) (htake : s.ports[p].canTake = true)
    (hsecond : s.time.secondDue = false) (hrefresh : s.refreshDue = false) :
    runSetRefreshPeriod p minutes s =
      ({ s with refreshPeriod := minutes.toNat, refreshCount := 0 }, some (.ok, [])) := by
  have hfirst : (s.secondFirst p).expiryFirst = s := by
    rw [State.secondFirst_of_not_due (PortUnit.canTake_lossDue htake) hsecond, State.expiryFirst_of_not_due hrefresh]
  exact afterDue_same hfirst _

/-- Settles O16, each request by the work of its block (`takeDirect_unheard`). -/
theorem settingRequestsSetTheirValue : Obligations.SettingRequestsSetTheirValue := by
  unfold Obligations.SettingRequestsSetTheirValue
  intro s p tag hs
  refine ⟨fun filter enabled mode av am cv cm hrange => ?_, ?_, ?_, fun seconds hsup hlow hhigh => ?_,
    fun minutes hsup hhigh hsecond hrefresh => ?_⟩
  · exact takeDirect_ownUnit (run := runSetFilter p filter enabled mode av am cv cm) hs tag .setFilter hrange rfl
  · exact takeDirect_ownUnit (run := runSetNotices p 1) hs tag .setNotices rfl rfl
  · refine (takeDirect_ownUnit (run := runSetNotices p 0) hs tag .setNotices rfl rfl).trans ?_
    refine congrArg (fun t : State => Host.Outcome.next t.finish) (State.modifyPort_congr ?_)
    exact congrArg (PortUnit.answer tag RequestCode.setNotices.byte .ok []) (PortUnit.setNotices_off _)
  · exact takeDirect_unheard hs tag .setHold rfl (decide_eq_true ⟨hlow, hhigh⟩) (fun _ => hsup) rfl rfl rfl rfl
  · exact takeDirect_unheard hs tag .setRefreshPeriod rfl (decide_eq_true hhigh) (fun _ => hsup)
      (runSetRefreshPeriod_of_none_due minutes hs.2 hsecond hrefresh) rfl rfl rfl

/-! ### Waits (R189, R190) -/

theorem State.windowSettled_iff (s : State) (w : Window) : s.windowSettled w = true ↔
    ∀ n : TileId, w.rect.touches n = true → s.tiles[n].state = .settled := by
  simp only [State.windowSettled, TileRec.isSettled, List.all_eq_true, Rect.mem_tiles, decide_eq_true_eq]

section
variable {s : State} {p : PortId} {tag window timeout : Byte} {w : Window}

theorem runWaitSettled_of_settled (hw : s.windows[windowOf window] = some w) (hsettled : s.windowSettled w = true) :
    runWaitSettled p tag window timeout s = (s, some (.ok, [])) := by
  unfold runWaitSettled
  rw [hw]
  exact if_pos hsettled

theorem runWaitSettled_of_unsettled (htake : s.ports[p].canTake = true) (hsecond : s.time.secondDue = false)
    (hw : s.windows[windowOf window] = some w) (hunsettled : ¬s.windowSettled w = true) :
    runWaitSettled p tag window timeout s =
      (s.modifyPort p fun u => { u with wait := some ⟨windowOf window, timeout.toNat, 0, tag⟩ }, none) := by
  unfold runWaitSettled
  rw [hw]
  refine (if_neg hunsettled).trans (afterDue_same ?_ _)
  exact State.secondFirst_of_not_due (PortUnit.canTake_lossDue htake) hsecond

end

theorem PortUnit.timeoutDue_of_wait {u : PortUnit} {w : Wait} (h : u.wait = some w) :
    u.timeoutDue = decide (w.timeout ≤ w.count) := by
  unfold PortUnit.timeoutDue
  rw [h]

theorem PortUnit.endWait_of_wait {u : PortUnit} {w : Wait} (h : u.wait = some w) (st : Status) :
    u.endWait st = { u with wait := none }.answer w.tag RequestCode.waitSettled.byte st [] := by
  unfold PortUnit.endWait
  rw [h]

/-- WAIT_TIMEOUT is heard by no sounder (R139). -/
theorem exec_waitTimeout (s : State) (p : PortId) : exec (.waitTimeout p) s = .next (s.timeOutWait p).finish := by
  refine congrArg Host.Outcome.next (State.whole_of_same ?_ ?_ ?_) <;>
  · unfold State.timeOutWait
    split <;> rfl

/-- Settles O17, by the branches of `runWaitSettled` and of `State.timeOutWait`. -/
theorem waitsBeginAndTimeOut : Obligations.WaitsBeginAndTimeOut := by
  unfold Obligations.WaitsBeginAndTimeOut
  refine ⟨fun s p tag window timeout w hs hrange hsecond hw => ⟨fun hsettled => ?_, ?_⟩,
    fun s p => ⟨fun w hwait hdue => ?_, fun hnot => ?_⟩⟩
  · exact takeDirect_unheard hs tag .waitSettled rfl hrange (fun h => absurd h Bool.false_ne_true)
      (runWaitSettled_of_settled hw ((s.windowSettled_iff w).mpr hsettled)) rfl rfl rfl
  · rintro ⟨n, htouch, hstate⟩
    have hunsettled : ¬s.windowSettled w = true := fun h => hstate ((s.windowSettled_iff w).mp h n htouch)
    refine (takeDirect_admitted hs tag .waitSettled true _ false _ rfl hrange fun h => absurd h Bool.false_ne_true).trans ?_
    rw [runWaitSettled_of_unsettled hs.2 hsecond hw hunsettled]
    exact congrArg (fun t : State => Host.Outcome.next t.finish) (State.heardSince_of_same rfl rfl rfl)
  · rw [exec_waitTimeout, State.timeOutWait, PortUnit.timeoutDue_of_wait hwait, decide_eq_true hdue]
    refine congrArg (fun t : State => Host.Outcome.next t.finish) (State.modifyPort_congr ?_)
    exact PortUnit.endWait_of_wait hwait .timeout
  · have hnone : s.ports[p].timeoutDue = false := by
      cases hwait : s.ports[p].wait with
      | none => simp only [PortUnit.timeoutDue, hwait]
      | some w => rw [PortUnit.timeoutDue_of_wait hwait, decide_eq_false (Nat.not_le.mpr (hnot w hwait))]
    rw [exec_waitTimeout, State.timeOutWait, hnone]
    rfl

end Sys2Proof.Machine
end

section
/-!
PROOF. POWER_ON_RESET (O4): the drive answers the reset values without a look at the ports, so its handings are those
of the reset values themselves, which the kernel evaluates.
-/

namespace Sys2Proof.Machine

/-! ### A change of the list that changes nothing -/

theorem reportSet_same_view (v : View) (stamp : Stamp) (panel : Vector (Vector (Option CellValue) 8) 40)
    (ns : List TileId) (tiles : Vector TileRec 40) : reportSet v v stamp panel ns tiles = tiles := by
  simp [reportSet]

theorem State.mapPorts_id (s : State) {f : PortId → PortUnit → PortUnit} (h : ∀ p u, f p u = u) :
    s.mapPorts f = s := by
  apply State.ext_fields <;> try rfl
  refine Vector.ext fun i hi => ?_
  exact (State.mapPorts_port s ⟨i, hi⟩ f).trans (h _ _)

theorem becameSettled_same (tiles : Vector TileRec 40) : becameSettled tiles tiles = [] := by
  simp [becameSettled]

theorem State.settledReport_nil (s : State) : s.settledReport [] = s := by
  unfold State.settledReport State.endWaits
  refine s.mapPorts_id fun _ u => ?_
  split
  · next w _ =>
    refine if_neg ?_
    dsimp only
    split <;> simp
  · rfl

/-- No composed value changed: no report, and no wait ends (R12). -/
theorem State.compositorEvent_same_view (s : State) (ns : List TileId) : s.compositorEvent s.view ns = s := by
  have htiles : reportSet s.view s.view s.now s.panel ns s.tiles = s.tiles := reportSet_same_view ..
  unfold State.compositorEvent
  rw [htiles]
  dsimp only
  rw [becameSettled_same]
  exact s.settledReport_nil

theorem State.clear_of_empty {s : State} (h : s.alerts = []) (src : Source) (code : Byte) : s.clear src code = s := by
  have hrecord : s.record src code = none := by
    simp [State.record, h]
  unfold State.clear
  rw [hrecord]

/-! ### The arbiter beside the ports -/

/-- The state with another power-good level, other ports, and other marks of the model. -/
def State.beside (powerGood : Bool) (ports : Vector PortUnit 4) (choices : Nat) (pending : List Instr) (s : State) :
    State :=
  { s with
    powerGood := powerGood
    ports := ports
    choices := choices
    pending := pending }

section
variable (s : State) (powerGood : Bool) (ports : Vector PortUnit 4) (choices : Nat) (pending : List Instr)

theorem State.handOne_beside : (s.beside powerGood ports choices pending).handOne =
    s.handOne.beside powerGood ports choices pending := by
  have hon : (s.beside powerGood ports choices pending).railOn = s.railOn := rfl
  have hfree : (s.beside powerGood ports choices pending).freeEngine = s.freeEngine := rfl
  have hchoose : (s.beside powerGood ports choices pending).chooseTile = s.chooseTile := rfl
  unfold State.handOne
  rw [hon, hfree, hchoose]
  split
  · split <;> rfl
  · rfl

theorem State.arbiter_beside : (s.beside powerGood ports choices pending).arbiter =
    s.arbiter.beside powerGood ports choices pending := by
  simp only [State.arbiter, State.handOne_beside]

end

/-! ### The reset values as the drive finds them (R77) -/

/-- The reset values with the rail ON. -/
def State.resetOn : State := { State.resetValues with rail := ⟨.on none, 0, 3⟩ }

theorem State.resetOn_handed : (∀ e : EngineId, State.resetOn.arbiter.engines[e] =
      some ⟨⟨e.val, by omega⟩, .fullDrive, Vector.replicate 8 background, 24⟩) ∧
    ∀ n : TileId, State.resetOn.arbiter.tiles[n] =
      ⟨if n.val < 4 then .driving else .unknown ⟨0, 0⟩, 0, false⟩ := by
  decide +kernel

theorem State.resetOn_waiting : State.resetOn.arbiter.anyWaiting = true := by decide +kernel

theorem PortUnit.powerOn_startTx (u : PortUnit) : u.powerOn.startTx = u.powerOn :=
  u.powerOn.startTx_of_quiet (.inr ⟨rfl, rfl⟩)

theorem State.powerOn_ports (s : State) (p : PortId) : s.powerOn.ports[p] = s.ports[p].powerOn := by
  fin_cases p <;> rfl

theorem State.powerOn_waiting (s : State) : s.powerOn.anyWaiting = true := by
  have hreset : State.resetValues.anyWaiting = true := by decide +kernel
  exact hreset

theorem State.powerOn_driveReact (s : State) : s.powerOn.driveReact = s.powerOn.enterRising := by
  have hoff : s.powerOn.driveReact = if s.powerOn.anyWaiting then s.powerOn.enterRising else s.powerOn := rfl
  rw [hoff, if_pos s.powerOn_waiting]

/-- No transmitter has a frame to begin after power-on reset. -/
theorem State.finish_of_powerOn {s t : State} (h : t.ports = s.powerOn.ports) : t.finish = t := by
  apply State.ext_fields <;> try rfl
  refine Vector.ext fun i hi => ?_
  have hunit : t.ports[i] = s.ports[(⟨i, hi⟩ : PortId)].powerOn := by
    simp only [h]
    exact s.powerOn_ports ⟨i, hi⟩
  have hfinish : t.finish.ports[i] = t.ports[i].startTx := State.mapPorts_port t ⟨i, hi⟩ _
  rw [hfinish, hunit, PortUnit.powerOn_startTx]

/-- With power-good asserted the reset values go ON at once: the arbiter hands from them, and the hold stands (R77,
R78). -/
theorem State.powerOn_reachOn {s : State} (hpower : s.powerGood = true) : s.powerOn.reachOn =
    State.resetOn.arbiter.beside true s.powerOn.ports s.choices s.pending := by
  have hclear : (s.powerOn.setAttempts 0).clear .system driveFaultCode = s.powerOn.setAttempts 0 :=
    State.clear_of_empty rfl _ _
  have hlist : (s.powerOn.setAttempts 0).listChange (State.clear .system driveFaultCode) = s.powerOn.setAttempts 0 := by
    rw [State.listChange, hclear, State.compositorEvent_same_view]
  have hon : (s.powerOn.setAttempts 0).setRail (.on none) =
      State.resetOn.beside true s.powerOn.ports s.choices s.pending := by
    rw [← hpower]
    rfl
  have hrail : State.resetOn.arbiter.rail = State.resetOn.rail := State.arbiter_rail _
  have hwaiting : (State.resetOn.arbiter.beside true s.powerOn.ports s.choices s.pending).anyWaiting = true :=
    State.resetOn_waiting
  have hstate : (State.resetOn.arbiter.beside true s.powerOn.ports s.choices s.pending).rail = ⟨.on none, 0, 3⟩ := hrail
  unfold State.reachOn
  rw [hlist]
  dsimp only
  rw [hon, State.arbiter_beside]
  unfold State.checkHold
  rw [hstate, hwaiting]
  apply State.ext_fields <;> rfl

/-- Settles O4, by the drive's answer to the reset values (`State.enterRising`). -/
theorem powerOnResetSetsResetValues : Obligations.PowerOnResetSetsResetValues := by
  unfold Obligations.PowerOnResetSetsResetValues
  intro s
  have hexec : exec .powerOnReset s = .next s.powerOn.enterRising.finish :=
    congrArg (fun t : State => Host.Outcome.next t.finish) s.powerOn_driveReact
  refine ⟨fun hpower => ?_, fun hpower => ?_⟩
  · have hrising : s.powerOn.enterRising = s.powerOn.setRail (.rising 4) :=
      if_neg (by rw [show s.powerOn.powerGood = s.powerGood from rfl, hpower]; exact Bool.false_ne_true)
    rw [hexec, hrising, State.finish_of_powerOn (s := s) (t := s.powerOn.setRail (.rising 4)) rfl]
    unfold State.powerOn
    rw [hpower]
    rfl
  · have hrising : s.powerOn.enterRising = State.resetOn.arbiter.beside true s.powerOn.ports s.choices s.pending :=
      (if_pos hpower).trans (State.powerOn_reachOn hpower)
    rw [hexec, hrising, State.finish_of_powerOn (s := s)
      (t := State.resetOn.arbiter.beside true s.powerOn.ports s.choices s.pending) rfl]
    obtain ⟨hengines, htiles⟩ := State.resetOn_handed
    exact ⟨_, rfl, State.arbiter_time _, State.arbiter_windows _, State.arbiter_panel _, State.arbiter_alerts _,
      State.arbiter_chimes _, State.arbiter_pattern _, State.arbiter_tones _, State.arbiter_bandHeight _,
      State.arbiter_supervisor _, State.arbiter_remoteTest _, State.arbiter_blank _, State.arbiter_keys _,
      State.arbiter_refreshPeriod _, State.arbiter_refreshCount _, rfl, State.arbiter_shelvingDue _, rfl, rfl,
      State.arbiter_rail _, s.powerOn_ports, hengines, htiles⟩

end Sys2Proof.Machine
end

section
/-!
PROOF. The links (O5, O6): what the scan of a stuffed content leaves, the runs of 1 bits in it, and the check of a
body as a remainder.
-/

namespace Sys2Proof.Machine

/-! ### The scan of stuffed content (R172) -/

/-- The number of 1 bits in a row that a scan counts after stuffed content. -/
def runAfter : Nat → List Bool → Nat
  | ones, [] => ones
  | _, false :: rest => runAfter 0 rest
  | ones, true :: rest => if ones = 4 then runAfter 0 rest else runAfter (ones + 1) rest

theorem runAfter_le_four {ones : Nat} (h : ones ≤ 4) (content : List Bool) : runAfter ones content ≤ 4 := by
  induction content generalizing ones with
  | nil => exact h
  | cons b rest ih =>
    cases b with
    | false => exact ih (by omega)
    | true =>
      unfold runAfter
      split
      · exact ih (by omega)
      · exact ih (by omega)

theorem runAfter_le_length (ones : Nat) (content : List Bool) : runAfter ones content ≤ ones + content.length := by
  induction content generalizing ones with
  | nil => exact Nat.le_refl _
  | cons b rest ih =>
    have hzero := ih 0
    have hnext := ih (ones + 1)
    rw [List.length_cons]
    cases b with
    | false =>
      unfold runAfter
      omega
    | true =>
      unfold runAfter
      split <;> omega

theorem runAfter_lt_length {content : List Bool} (h : false ∈ content) (ones : Nat) :
    runAfter ones content < content.length := by
  induction content generalizing ones with
  | nil => simp at h
  | cons b rest ih =>
    rw [List.length_cons]
    cases b with
    | false =>
      have hrest := runAfter_le_length 0 rest
      unfold runAfter
      omega
    | true =>
      have hin : false ∈ rest := by simpa using h
      have hzero := ih hin 0
      have hnext := ih hin (ones + 1)
      unfold runAfter
      split <;> omega

/-- Stuffed content is read as it was before stuffing. -/
theorem scanLine_stuff {ones : Nat} (h : ones ≤ 4) (acc content rest : List Bool) :
    scanLine ones acc (stuff ones content ++ rest) =
      scanLine (runAfter ones content) (content.reverse ++ acc) rest := by
  induction content generalizing ones acc with
  | nil => rfl
  | cons b bits ih =>
    rw [List.reverse_cons, List.append_assoc]
    cases b with
    | false =>
      have hscan : scanLine ones acc (false :: (stuff 0 bits ++ rest)) = scanLine 0 (false :: acc) (stuff 0 bits ++ rest) := by
        rw [scanLine, if_neg (by omega), if_neg (by omega)]
      exact hscan.trans (ih (by omega) (false :: acc))
    | true =>
      by_cases hfour : ones = 4
      · subst hfour
        exact ih (by omega) (true :: acc)
      · have hstuff : stuff ones (true :: bits) = true :: stuff (ones + 1) bits := if_neg hfour
        have hrun : runAfter ones (true :: bits) = runAfter (ones + 1) bits := if_neg hfour
        rw [hstuff, hrun, List.cons_append, scanLine, if_neg (by omega)]
        exact ih (by omega) (true :: acc)

theorem scanLine_flagBits {ones : Nat} (h : ones ≤ 4) (acc : List Bool) :
    scanLine ones acc flagBits = .closed acc.reverse := by
  have hfive : ones ≠ 5 := by omega
  have hsix : ones ≠ 6 := by omega
  simp [flagBits, scanLine, beforeFlag, hfive, hsix]

theorem scanLine_abort {ones : Nat} (h : ones ≤ 4) (acc : List Bool) :
    scanLine ones acc (List.replicate 7 true) = .aborted (acc.drop ones).reverse := by
  interval_cases ones <;> simp [scanLine]

/-! ### Runs of 1 bits in stuffed content -/

/-- No six 1 bits in a row, with this many just before. -/
def noSix : Nat → List Bool → Prop
  | _, [] => True
  | _, false :: rest => noSix 0 rest
  | ones, true :: rest => ones < 5 ∧ noSix (ones + 1) rest

theorem noSix_stuff {ones : Nat} (h : ones ≤ 4) (content : List Bool) : noSix ones (stuff ones content) := by
  induction content generalizing ones with
  | nil => trivial
  | cons b bits ih =>
    cases b with
    | false => exact ih (by omega)
    | true =>
      unfold stuff
      split
      · exact ⟨by omega, ih (by omega)⟩
      · exact ⟨by omega, ih (by omega)⟩

theorem noSix.mono {m n : Nat} (hmn : m ≤ n) {l : List Bool} (h : noSix n l) : noSix m l := by
  induction l generalizing m n with
  | nil => trivial
  | cons b rest ih =>
    cases b with
    | false => exact h
    | true => exact ⟨by have := h.1; omega, ih (by omega) h.2⟩

theorem noSix.right {n : Nat} {l m : List Bool} (h : noSix n (l ++ m)) : noSix 0 m := by
  induction l generalizing n with
  | nil => exact h.mono (Nat.zero_le n)
  | cons b rest ih =>
    cases b with
    | false => exact ih h
    | true => exact ih h.2

theorem noSix.not_prefix {n : Nat} (hn : n ≤ 5) {l : List Bool} (h : noSix n l) (w : List Bool) :
    ¬List.replicate (6 - n) true <+: l ++ false :: w := by
  induction l generalizing n with
  | nil =>
    rw [show 6 - n = (5 - n) + 1 by omega, List.replicate_succ]
    simp
  | cons b rest ih =>
    rw [show 6 - n = (5 - n) + 1 by omega, List.replicate_succ, List.cons_append, List.cons_prefix_cons]
    cases b with
    | false => simp
    | true =>
      obtain ⟨hlow, hrest⟩ := h
      rintro ⟨-, hprefix⟩
      rw [show 5 - n = 6 - (n + 1) by omega] at hprefix
      exact ih (by omega) hrest hprefix

theorem noSix.not_infix {l : List Bool} (h : noSix 0 l) : ¬List.replicate 6 true <:+: l := by
  rintro ⟨a, b, hl⟩
  rw [← hl, List.append_assoc] at h
  refine h.right.not_prefix (by decide) [] ?_
  rw [List.append_assoc]
  exact List.prefix_append _ _

/-! ### Idle fill (log 11) -/

theorem false_mem_stuff {ones : Nat} (h : ones ≤ 4) {content : List Bool}
    (hcontent : false ∈ content ∨ 5 ≤ ones + content.length) : false ∈ stuff ones content := by
  induction content generalizing ones with
  | nil =>
    rcases hcontent with hin | hlong
    · exact absurd hin List.not_mem_nil
    · exact absurd hlong (by simp; omega)
  | cons b bits ih =>
    cases b with
    | false => exact List.mem_cons_self
    | true =>
      unfold stuff
      split
      · simp
      · refine List.mem_cons_of_mem _ (ih (by omega) ?_)
        refine hcontent.imp (fun hin => by simpa using hin) fun hlong => ?_
        rw [List.length_cons] at hlong
        omega

theorem exists_dropWhile_of_false_mem {l : List Bool} (h : false ∈ l) :
    ∃ front rest, l = front ++ false :: rest ∧ ∀ w, (l ++ w).dropWhile id = false :: (rest ++ w) := by
  induction l with
  | nil => exact absurd h List.not_mem_nil
  | cons b bits ih =>
    cases b with
    | false => exact ⟨[], bits, rfl, fun w => rfl⟩
    | true =>
      obtain ⟨front, rest, rfl, hdrop⟩ := ih (by simpa using h)
      exact ⟨true :: front, rest, rfl, hdrop⟩

/-- Content with a 0 in it as sent is no idle fill. -/
theorem idleFill_stuff {content : List Bool} (h : false ∈ content ∨ 5 ≤ content.length) :
    idleFill (stuff 0 content ++ flagBits) content = false := by
  have hnonempty : content.isEmpty = false := by
    cases content <;> simp_all
  have hzero : false ∈ stuff 0 content := false_mem_stuff (by omega) (by simpa using h)
  obtain ⟨front, rest, hstuff, hdrop⟩ := exists_dropWhile_of_false_mem hzero
  have hrest : noSix 0 rest := by
    have hall : noSix 0 (stuff 0 content) := noSix_stuff (by omega) content
    rw [hstuff] at hall
    exact hall.right (l := front)
  have hno : ¬flagBits <+: false :: (rest ++ flagBits) := by
    rintro ⟨w, hw⟩
    refine hrest.not_prefix (by decide) [true, true, true, true, true, true, false] ⟨false :: w, ?_⟩
    exact (List.cons.inj hw).2
  rw [idleFill, hnonempty, hdrop, Bool.false_or, Bool.eq_false_iff]
  simpa using hno

/-! ### What a line comes to (R174) -/

theorem receive_of_closed {line content : List Bool} (hscan : scanLine 0 [] line = .closed content) :
    receive line = if idleFill line content then .nothing else judgeContent content := by
  rw [receive, hscan]

theorem receive_of_aborted {line content : List Bool} (hscan : scanLine 0 [] line = .aborted content) :
    receive line = if content.isEmpty then .nothing else .discarded false := by
  rw [receive, hscan]

theorem receive_stuff_flagBits {content : List Bool} (h : false ∈ content ∨ 5 ≤ content.length) :
    receive (stuff 0 content ++ flagBits) = judgeContent content := by
  have hscan : scanLine 0 [] (stuff 0 content ++ flagBits) = .closed content := by
    rw [scanLine_stuff (by omega), scanLine_flagBits (runAfter_le_four (by omega) content)]
    simp
  rw [receive_of_closed hscan, idleFill_stuff h]
  rfl

theorem receive_stuff_abort {content : List Bool} (h : false ∈ content ∨ 5 ≤ content.length) :
    receive (stuff 0 content ++ List.replicate 7 true) = .discarded false := by
  have hshort : runAfter 0 content < content.length := by
    rcases h with hin | hlong
    · exact runAfter_lt_length hin 0
    · have hfour := runAfter_le_four (ones := 0) (by omega) content
      omega
  have hscan := (scanLine_stuff (ones := 0) (by omega) [] content (List.replicate 7 true)).trans
    (scanLine_abort (runAfter_le_four (by omega) content) _)
  have hsome : ((content.reverse ++ []).drop (runAfter 0 content)).reverse.isEmpty = false := by
    rw [← Bool.not_eq_true, List.isEmpty_iff_length_eq_zero]
    simp
    omega
  rw [receive_of_aborted hscan, hsome]
  rfl

theorem receive_ones (n : Nat) : receive (List.replicate n true) = .nothing ∧
    receive (List.replicate n true ++ flagBits) = .nothing := by
  by_cases hfew : n ≤ 6
  · interval_cases n <;> decide
  · have hsplit : List.replicate n true = List.replicate 7 true ++ List.replicate (n - 7) true := by
      rw [List.replicate_append_replicate]
      congr 1
      omega
    have hscan : ∀ rest, scanLine 0 [] (List.replicate 7 true ++ rest) = .aborted [] := fun _ => rfl
    rw [hsplit, List.append_assoc]
    exact ⟨receive_of_aborted (hscan _), receive_of_aborted (hscan _)⟩

/-- Settles O6, by the scan of stuffed content (`scanLine_stuff`) and the runs in it (`noSix_stuff`). -/
theorem contentEndsByFlagOrAbort : Obligations.ContentEndsByFlagOrAbort := by
  unfold Obligations.ContentEndsByFlagOrAbort
  exact ⟨fun _ => ⟨receive_stuff_flagBits, receive_stuff_abort⟩, receive_ones,
    fun bits => (noSix_stuff (by omega) bits).not_infix⟩

/-! ### Bytes and bits (R172) -/

theorem bitsOfBytes_cons (b : Byte) (bs : List Byte) : bitsOfBytes (b :: bs) = bitsOfByte b ++ bitsOfBytes bs := rfl

theorem bitsOfBytes_length (bs : List Byte) : (bitsOfBytes bs).length = 8 * bs.length := by
  induction bs with
  | nil => rfl
  | cons b bs ih =>
    rw [bitsOfBytes_cons, List.length_append, ih, List.length_cons]
    have hbyte : (bitsOfByte b).length = 8 := rfl
    omega

theorem byteOfBits_bitsOfByte (b : Byte) : byteOfBits (bitsOfByte b) = b := by
  revert b
  decide +kernel

theorem bytesOfBits_bitsOfBytes (bs : List Byte) : bytesOfBits (bitsOfBytes bs) = bs := by
  induction bs with
  | nil => rfl
  | cons b bs ih =>
    have hcons : bytesOfBits (bitsOfBytes (b :: bs)) = byteOfBits (bitsOfByte b) :: bytesOfBits (bitsOfBytes bs) := rfl
    rw [hcons, byteOfBits_bitsOfByte, ih]

/-! ### The check (R173) -/

theorem checkBits_length (bits : List Bool) : (checkBits bits).length = 16 := by simp [checkBits]

theorem contentOf_length (body : List Byte) : (contentOf body).length = 8 * body.length + 16 := by
  rw [contentOf, List.length_append, bitsOfBytes_length, checkBits_length]

/-- A frame's own content passes R174: its check is right, and its body is read back. -/
theorem judgeContent_contentOf {body : List Byte} (hlow : 3 ≤ body.length) (hhigh : body.length ≤ 112)
    (hkind : body.head? = some 1) : judgeContent (contentOf body) = .request body := by
  have hlength := contentOf_length body
  have hbits : (contentOf body).length - 16 = (bitsOfBytes body).length := by
    rw [hlength, bitsOfBytes_length]
    omega
  have htake : (contentOf body).take ((contentOf body).length - 16) = bitsOfBytes body := by
    rw [hbits]
    exact List.take_left
  have hdrop : (contentOf body).drop ((contentOf body).length - 16) = checkBits (bitsOfBytes body) := by
    rw [hbits]
    exact List.drop_left
  unfold judgeContent
  rw [if_neg (by omega), if_neg (by omega)]
  dsimp only
  rw [htake, hdrop, bytesOfBits_bitsOfBytes, if_neg (fun h => h rfl), if_neg (by omega), if_pos hkind]

section
open Polynomial

/-- A body's bits and the complement of its check are, but for the preset, a multiple of the generator (R173). -/
theorem generator_dvd_check (bits : List Bool) :
    generator ∣ polyOf (bits ++ (checkBits bits).map not) + X ^ bits.length * polyOf (List.replicate 16 true) := by
  obtain ⟨c, hc⟩ := crc_poly 0xFFFF bits
  have hpreset : registerBits 0xFFFF = List.replicate 16 true := by decide
  have htwo : ∀ q : Polynomial (ZMod 2), q + q = 0 := fun q => by
    rw [← two_mul, ← Polynomial.C_ofNat, show (OfNat.ofNat 2 : ZMod 2) = 0 from rfl, map_zero, zero_mul]
  refine ⟨c, ?_⟩
  rw [checkBits_not, polyOf_append, registerBits_length]
  rw [hpreset] at hc
  linear_combination htwo (polyOf (registerBits (bits.foldl crcStep 0xFFFF))) - hc

end

/-- Settles O5, by `receive_stuff_flagBits` on the content of the body, and `crc_poly`. -/
theorem framedBodyIsReceived : Obligations.FramedBodyIsReceived := by
  unfold Obligations.FramedBodyIsReceived
  refine ⟨fun body hlow hhigh hkind => ?_, fun bits => ⟨checkBits_length bits, generator_dvd_check bits⟩⟩
  have hlong : 5 ≤ (contentOf body).length := by
    rw [contentOf_length]
    omega
  exact (receive_stuff_flagBits (.inr hlong)).trans (judgeContent_contentOf hlow hhigh hkind)

end Sys2Proof.Machine
end
